-- ==== Sys2Proof/Word.lean ====
section
/-! DEFINITION. The two word types of the block: a byte (a BUF cell, a TREC field, the data register) and the 32-bit word
(a command word, STATUS, the time register). -/

namespace Sys2Proof

/-- Eight bits (10_state R27, R28, R38). -/
abbrev Byte := BitVec 8

/-- Thirty-two bits: a command word (30_encoding R70), STATUS (10_state R26), TR (10_state R43). -/
abbrev Word := BitVec 32

end Sys2Proof
end

