-- ==== Sys2Proof/Machine/Interface.lean ====
section
/-! DEFINITION. The Register Interface as the block sees it (10_state R36 to R44, 20_memory R50 to R55): devices, named flags,
fields and registers, and the four events. Names carry no layout (00_scope R16); the numbers below are the model's own keys,
not REGMAP, which is the parameter `Config.regMap` (log 20). -/

namespace Sys2Proof.Machine

/-- A device of the Register Interface (20_memory R51). -/
inductive Dev where
  /-- `I2C[b]`. -/
  | i2c (b : BitVec 2)
  /-- `PLAT[b]`: clock gates and pins of bus b (10_state R40). -/
  | plat (b : BitVec 2)
  /-- `RCC`. -/
  | rcc
  /-- `PWR`. -/
  | pwr
  /-- `BDC`, backup-domain control. -/
  | bdc
  /-- `RTC`. -/
  | rtc
deriving DecidableEq, Repr

/-- A status flag read by `RdF` (20_memory R52). -/
inductive Flag where
  /-- SB, "start bit sent" (10_state R37). -/
  | sb
  /-- ADDR, "address matched". -/
  | addr
  /-- TXE, "transmit-register-empty". -/
  | txe
  /-- BTF, "byte transfer finished". -/
  | btf
  /-- RXNE, "data-ready". -/
  | rxne
  /-- LSE_RDY (10_state R41). -/
  | lseRdy
  /-- INITF, the initialization flag (10_state R42). -/
  | initf
  /-- RSF, "registers synchronized". -/
  | rsf
deriving DecidableEq, Repr

/-- A field written by `WrF` (20_memory R54). -/
inductive Field where
  /-- ACK (10_state R36). -/
  | ack
  /-- START. -/
  | start
  /-- STOP. -/
  | stop
  /-- POS. -/
  | pos
  /-- SWRST. -/
  | swrst
  /-- PE. -/
  | pe
  /-- FREQ (10_state R39). -/
  | freq
  /-- CCR. -/
  | ccr
  /-- TRISE. -/
  | trise
  /-- I2C_CLK_EN (10_state R40). -/
  | i2cClkEn
  /-- GPIO_CLK_EN. -/
  | gpioClkEn
  /-- PIN_MODE. -/
  | pinMode
  /-- PIN_OTYPE. -/
  | pinOtype
  /-- PIN_PULL. -/
  | pinPull
  /-- PIN_SPEED. -/
  | pinSpeed
  /-- PWR_CLK_EN (10_state R41). -/
  | pwrClkEn
  /-- BKP_WR_EN. -/
  | bkpWrEn
  /-- LSE_ON. -/
  | lseOn
  /-- RTC_SRC. -/
  | rtcSrc
  /-- RTC_EN. -/
  | rtcEn
  /-- INIT (10_state R42). -/
  | init
  /-- PREDIV_S. -/
  | predivS
  /-- PREDIV_A. -/
  | predivA
  /-- FMT. -/
  | fmt
deriving DecidableEq, Repr

/-- A register read or written whole by `RdR`, `WrR` (20_memory R53, R55). -/
inductive Reg where
  /-- DR (10_state R38). -/
  | dr
  /-- SR1. -/
  | sr1
  /-- SR2. -/
  | sr2
  /-- WPR (10_state R42). -/
  | wpr
  /-- TR (10_state R43). -/
  | tr
  /-- DATE (10_state R44). -/
  | date
deriving DecidableEq, Repr

/-- The symbolic values whose numeric codes are not in the source (10_state R40, R41, R42). -/
inductive Sym where
  /-- OD, open-drain. -/
  | od
  /-- UP, pull-up. -/
  | up
  /-- LSE. -/
  | lse
  /-- H24. -/
  | h24
  /-- AMPM; no command writes it. -/
  | ampm
deriving DecidableEq, Repr

/-- A value that passes through the Register Interface (10_state R36 to R44, 20_memory R61). -/
inductive Val where
  /-- A one-bit field or flag. -/
  | bit (v : BitVec 1)
  /-- DR or WPR. -/
  | byte (v : Byte)
  /-- A whole register of 32 bits (log 8). -/
  | word (v : Word)
  /-- A field whose width is not in the source. -/
  | num (n : Nat)
  /-- An enumerated field. -/
  | sym (x : Sym)
deriving DecidableEq, Repr

/-- A name in the Register Interface space, (device, name) (20_memory R51). -/
inductive RiName where
  /-- A status flag. -/
  | flag (d : Dev) (f : Flag)
  /-- A control field. -/
  | field (d : Dev) (f : Field)
  /-- A whole register. -/
  | reg (d : Dev) (r : Reg)
deriving DecidableEq, Repr

/-- One Register Interface access, with its value (20_memory R52 to R55). -/
inductive Event where
  /-- `RdF(dev, flag) = bit`. -/
  | rdF (d : Dev) (f : Flag) (v : BitVec 1)
  /-- `RdR(dev, reg) = v`. -/
  | rdR (d : Dev) (r : Reg) (v : Val)
  /-- `WrF(dev, field, v)`. -/
  | wrF (d : Dev) (f : Field) (v : Val)
  /-- `WrR(dev, reg, v)`. -/
  | wrR (d : Dev) (r : Reg) (v : Val)
deriving DecidableEq, Repr

/-- The name an event accesses. -/
def Event.name : Event → RiName
  | .rdF d f _ => .flag d f
  | .rdR d r _ => .reg d r
  | .wrF d f _ => .field d f
  | .wrR d r _ => .reg d r

/-- The value an event carries. -/
def Event.val : Event → Val
  | .rdF _ _ v => .bit v
  | .rdR _ _ v => v
  | .wrF _ _ v => v
  | .wrR _ _ v => v

/-- The model's key of a device, 0 to 11. -/
def Dev.code : Dev → Nat
  | .i2c b => b.toNat
  | .plat b => 4 + b.toNat
  | .rcc => 8
  | .pwr => 9
  | .bdc => 10
  | .rtc => 11

/-- The model's key of a flag, 0 to 7. -/
def Flag.code : Flag → Nat
  | .sb => 0 | .addr => 1 | .txe => 2 | .btf => 3 | .rxne => 4 | .lseRdy => 5 | .initf => 6 | .rsf => 7

/-- The model's key of a field, 0 to 23. -/
def Field.code : Field → Nat
  | .ack => 0 | .start => 1 | .stop => 2 | .pos => 3 | .swrst => 4 | .pe => 5 | .freq => 6 | .ccr => 7 | .trise => 8
  | .i2cClkEn => 9 | .gpioClkEn => 10 | .pinMode => 11 | .pinOtype => 12 | .pinPull => 13 | .pinSpeed => 14
  | .pwrClkEn => 15 | .bkpWrEn => 16 | .lseOn => 17 | .rtcSrc => 18 | .rtcEn => 19
  | .init => 20 | .predivS => 21 | .predivA => 22 | .fmt => 23

/-- The model's key of a register, 0 to 5. -/
def Reg.code : Reg → Nat
  | .dr => 0 | .sr1 => 1 | .sr2 => 2 | .wpr => 3 | .tr => 4 | .date => 5

/-- The model's key of a name: 64 keys to a device, below 768 (log 20). -/
def RiName.code : RiName → Nat
  | .flag d f => 64 * d.code + f.code
  | .field d f => 64 * d.code + 8 + f.code
  | .reg d r => 64 * d.code + 32 + r.code

/-- The kinds of device, without a bus handle. -/
inductive DevKind where
  /-- An `I2C[b]`. -/
  | i2c
  /-- A `PLAT[b]`. -/
  | plat
  /-- `RCC`. -/
  | rcc
  /-- `PWR`. -/
  | pwr
  /-- `BDC`. -/
  | bdc
  /-- `RTC`. -/
  | rtc
deriving DecidableEq, Repr

/-- The kind of a device. -/
def Dev.kind : Dev → DevKind
  | .i2c _ => .i2c
  | .plat _ => .plat
  | .rcc => .rcc
  | .pwr => .pwr
  | .bdc => .bdc
  | .rtc => .rtc

/-- The device that has a flag (10_state R37, R41, R42). -/
def Flag.kind : Flag → DevKind
  | .sb | .addr | .txe | .btf | .rxne => .i2c
  | .lseRdy => .bdc
  | .initf | .rsf => .rtc

/-- The device that has a field (10_state R36, R39 to R42). -/
def Field.kind : Field → DevKind
  | .ack | .start | .stop | .pos | .swrst | .pe | .freq | .ccr | .trise => .i2c
  | .i2cClkEn | .gpioClkEn | .pinMode | .pinOtype | .pinPull | .pinSpeed => .plat
  | .pwrClkEn => .rcc
  | .bkpWrEn => .pwr
  | .lseOn | .rtcSrc | .rtcEn => .bdc
  | .init | .predivS | .predivA | .fmt => .rtc

/-- The device that has a register (10_state R38, R42 to R44). -/
def Reg.kind : Reg → DevKind
  | .dr | .sr1 | .sr2 => .i2c
  | .wpr | .tr | .date => .rtc

/-- The device of a name. -/
def RiName.dev : RiName → Dev
  | .flag d _ => d
  | .field d _ => d
  | .reg d _ => d

/-- Does the device of this name have such a flag, field or register, and is its bus handle below N_BUS (20_memory R51)? -/
def RiName.present (nBus : Nat) (n : RiName) : Bool :=
  (match n with
    | .flag d f => d.kind == f.kind
    | .field d f => d.kind == f.kind
    | .reg d r => d.kind == r.kind) &&
  (match n.dev with
    | .i2c b => decide (b.toNat < nBus)
    | .plat b => decide (b.toNat < nBus)
    | _ => true)

/-- Has a value the width or kind that the rules give the name (10_state R36 to R44, 20_memory R61)? -/
def RiName.fits : RiName → Val → Bool
  | .flag _ _, .bit _ => true
  | .flag _ _, _ => false
  | .field _ f, .num _ => f == .freq || f == .ccr || f == .trise || f == .pinMode || f == .pinSpeed || f == .predivS || f == .predivA
  | .field _ f, .sym _ => f == .pinOtype || f == .pinPull || f == .rtcSrc || f == .fmt
  | .field _ f, .bit _ =>
      !(f == .freq || f == .ccr || f == .trise || f == .pinMode || f == .pinSpeed || f == .predivS || f == .predivA ||
        f == .pinOtype || f == .pinPull || f == .rtcSrc || f == .fmt)
  | .field _ _, _ => false
  | .reg _ r, .byte _ => r == .dr || r == .wpr
  | .reg _ r, .word _ => !(r == .dr || r == .wpr)
  | .reg _ _, _ => false

/-- An event on a name that exists, with a value of its kind. -/
def Event.wf (nBus : Nat) (e : Event) : Bool := e.name.present nBus && e.name.fits e.val

end Sys2Proof.Machine
end

