-- ==== Sys2Proof/Config.lean ====
section
/-! DEFINITION. The configuration of 00_scope R9, its constants, and the free values. A parameter that R9 marks OPEN and
that only passes through to an event is an opaque constant in the configuration at reset (log 4); the free values are
opaque functions of a counter (log 7, 9, 10). -/

namespace Sys2Proof

/-- TR_LAYOUT (00_scope R9, 10_state R43): the lowest bit of each of the six 4-bit digit fields of TR. -/
structure TrLayout where
  /-- Hours, tens. -/
  ht : Nat
  /-- Hours, units. -/
  hu : Nat
  /-- Minutes, tens. -/
  mnt : Nat
  /-- Minutes, units. -/
  mnu : Nat
  /-- Seconds, tens. -/
  st : Nat
  /-- Seconds, units. -/
  su : Nat
deriving DecidableEq, Repr

/-- A physical address and a bit range in it (20_memory R58). -/
structure RegPlace where
  /-- The address. -/
  addr : Nat
  /-- The highest bit of the range. -/
  hi : Nat
  /-- The lowest bit of the range. -/
  lo : Nat
deriving DecidableEq, Repr

/-- The parameters of 00_scope R9, fixed for a machine; its constants stand below. -/
structure Config where
  /-- N_BUS, 1..4. -/
  nBus : Nat
  /-- POLL_LIMIT: `none` is INF, `some L` a bound on the reads of one poll (20_memory R56). -/
  pollLimit : Option Nat
  /-- CHECKED: the acceptance checks of 60_exceptions R183 are made. -/
  checked : Bool
  /-- RD_ADDR_ALL: READ of two or more bytes does its own address phase (40_i2c_master R111). -/
  rdAddrAll : Bool
  /-- EE_ADDR_BEFORE_READ: which expansion EEREAD has (42_eeprom_client R163, R164). -/
  eeAddrBeforeRead : Bool
  /-- FREQ_VAL. -/
  freqVal : Nat
  /-- CCR_VAL. -/
  ccrVal : Nat
  /-- TRISE_VAL. -/
  triseVal : Nat
  /-- AF_VAL. -/
  afVal : Nat
  /-- SPEED_VAL. -/
  speedVal : Nat
  /-- PREDIV_S_VAL. -/
  predivSVal : Nat
  /-- PREDIV_A_VAL. -/
  predivAVal : Nat
  /-- LOCK_SENTINEL, neither KEY1 nor KEY2 (41_rtc_sequencer R144). -/
  lockSentinel : Byte
  /-- DATE_PLACEHOLDER (10_state R44). -/
  datePlaceholder : Word
  /-- TR_LAYOUT. -/
  trLayout : TrLayout
  /-- REGMAP: the place of each name of the Register Interface; "no rule of this spec reads it" (20_memory R58). -/
  regMap : List (Machine.RiName × RegPlace)
deriving DecidableEq, Repr

/-- BUF_SIZE (00_scope R9). -/
def Config.bufSize : Nat := 512
/-- CNT_MAX (00_scope R9): the largest byte count, the largest value of the 8-bit field `cnt` (30_encoding R71). -/
def Config.cntMax : Nat := 255
/-- PAGE_NUM (00_scope R9, 20_memory R68). -/
def Config.pageNum : Nat := 4096
/-- EE_PAGE_WRITE_LIMIT (00_scope R9), "not enforced": no rule refuses a longer EEWRITE (42_eeprom_client R162, R165). -/
def Config.eePageWriteLimit : Nat := 32
/-- KEY1 (41_rtc_sequencer R142). -/
def Config.key1 : Byte := 0xCA
/-- KEY2 (41_rtc_sequencer R142). -/
def Config.key2 : Byte := 0x53

/-- The answer the environment gives to the `n`-th free draw: any value (00_scope R7, 93 U10, U11, U16). Log 7. -/
opaque Config.freeAnswer : Nat → Word
/-- What a BUF cell or a TREC field never written since reset reads as on the `n`-th free draw: any value (93 U9). Log 9, 10. -/
opaque Config.freeByte : Nat → Byte

/-- FREQ_VAL of the machine at reset, OPEN (00_scope R9). Log 4. -/
opaque Config.openFreq : Nat
/-- CCR_VAL, OPEN. Log 4. -/
opaque Config.openCcr : Nat
/-- TRISE_VAL, OPEN. Log 4. -/
opaque Config.openTrise : Nat
/-- AF_VAL, OPEN. Log 4. -/
opaque Config.openAf : Nat
/-- SPEED_VAL, OPEN. Log 4. -/
opaque Config.openSpeed : Nat
/-- PREDIV_S_VAL, OPEN. Log 4. -/
opaque Config.openPredivS : Nat
/-- PREDIV_A_VAL, OPEN. Log 4. -/
opaque Config.openPredivA : Nat
/-- DATE_PLACEHOLDER, OPEN. Log 4. -/
opaque Config.openDate : Word
/-- REGMAP, OPEN; the informative map of 93 K2 is general knowledge and is not taken. Log 4. -/
opaque Config.openRegMap : List (Machine.RiName × RegPlace)

/-- The default TR_LAYOUT of 00_scope R9. Log 6. -/
def TrLayout.default : TrLayout := { ht := 20, hu := 16, mnt := 12, mnu := 8, st := 4, su := 0 }

/-- The configuration of `State.reset`: the reference behaviour of 00_scope R15 (POLL_LIMIT INF, CHECKED false), RD_ADDR_ALL
true and EE_ADDR_BEFORE_READ false (R9), N_BUS 4 (log 3), the defaults of log 6, the opaque constants above. -/
def Config.atReset : Config where
  nBus := 4
  pollLimit := none
  checked := false
  rdAddrAll := true
  eeAddrBeforeRead := false
  freqVal := Config.openFreq
  ccrVal := Config.openCcr
  triseVal := Config.openTrise
  afVal := Config.openAf
  speedVal := Config.openSpeed
  predivSVal := Config.openPredivS
  predivAVal := Config.openPredivA
  lockSentinel := 0xFF
  datePlaceholder := Config.openDate
  trLayout := TrLayout.default
  regMap := Config.openRegMap

end Sys2Proof
end

