-- ==== Sys2Proof/Syntax.lean ====
section
/-! DEFINITION. The ten commands (00_scope R2, 30_encoding R72, R74), one constructor per row of the opcode table.
WRITE and READ carry the whole 8-bit `arg` field as `addr`, as 40_i2c_master R105 and R108 name the operand; its bits 7:1 are
the 7-bit address of R72 (`addr7` of Decode.lean), log 17. -/

namespace Sys2Proof

/-- A command of the block (30_encoding R72). `b` is the bus handle, `off` the buffer offset, `n` the byte count. -/
inductive Instr where
  /-- CONFIGURE b (R101). -/
  | configure (b : BitVec 2)
  /-- START b (R102). -/
  | start (b : BitVec 2)
  /-- SENDADDR b, sel (R103). -/
  | sendaddr (b : BitVec 2) (sel : Byte)
  /-- WRITE b, addr, off, n (R105). -/
  | write (b : BitVec 2) (addr : Byte) (off : Byte) (n : Byte)
  /-- WRDATA b, off, n (R107). -/
  | wrdata (b : BitVec 2) (off : Byte) (n : Byte)
  /-- READ b, addr, off, n (R108). -/
  | read (b : BitVec 2) (addr : Byte) (off : Byte) (n : Byte)
  /-- STOP b (R104). -/
  | stop (b : BitVec 2)
  /-- RTCINIT (R135). -/
  | rtcinit
  /-- RTCSET (R136). -/
  | rtcset
  /-- RTCGET (R137). -/
  | rtcget
deriving DecidableEq, Repr

end Sys2Proof
end

