-- ==== Sys2Proof/Machine/State.lean ====
section
/-! DEFINITION. The state (10_state R20 to R35), the reasons a step can stop, and the state after reset (10_state R47, R48).
Plain data. Fields marked MODEL'S OWN are no state of the spec. -/

namespace Sys2Proof.Machine

/-- Which of the ten commands runs (10_state R21); its operands are in `Lat`. -/
inductive Cmd where
  /-- CONFIGURE. -/
  | configure
  /-- START. -/
  | start
  /-- SENDADDR. -/
  | sendaddr
  /-- WRITE. -/
  | write
  /-- WRDATA. -/
  | wrdata
  /-- READ. -/
  | read
  /-- STOP. -/
  | stop
  /-- RTCINIT. -/
  | rtcinit
  /-- RTCSET. -/
  | rtcset
  /-- RTCGET. -/
  | rtcget
deriving DecidableEq, Repr

/-- `seq` (10_state R21, R22): idle, or the running command and the index of its next micro-step. -/
inductive Seq where
  /-- IDLE. -/
  | idle
  /-- RUN(cmd, upc). -/
  | run (cmd : Cmd) (upc : Nat)
deriving DecidableEq, Repr

/-- `lat` (10_state R24): the operands latched at acceptance. -/
structure Lat where
  /-- Bus handle. -/
  b : BitVec 2
  /-- Byte count. -/
  cnt : Byte
  /-- Buffer offset. -/
  off : Byte
  /-- Address byte. -/
  arg : Byte
deriving DecidableEq, Repr

/-- The names of the eight TREC registers (10_state R28). -/
inductive TField where
  /-- SEC. -/
  | sec
  /-- MIN. -/
  | min
  /-- HOUR. -/
  | hour
  /-- DOM, day of month. -/
  | dom
  /-- MON, month. -/
  | mon
  /-- YEAR. -/
  | year
  /-- DOW, day of week. -/
  | dow
  /-- DST, daylight saving. -/
  | dst
deriving DecidableEq, Repr

/-- One value for each TREC register (10_state R28). -/
structure TimeRec (α : Type) where
  /-- SEC. -/
  sec : α
  /-- MIN. -/
  min : α
  /-- HOUR. -/
  hour : α
  /-- DOM. -/
  dom : α
  /-- MON. -/
  mon : α
  /-- YEAR. -/
  year : α
  /-- DOW. -/
  dow : α
  /-- DST. -/
  dst : α
deriving DecidableEq, Repr

/-- `rtc_state` (10_state R32). -/
inductive RtcState where
  /-- Uninitialized. -/
  | uninitialized
  /-- ClockEnabling. -/
  | clockEnabling
  /-- WriteUnlocked. -/
  | writeUnlocked
  /-- InitMode. -/
  | initMode
  /-- Running. -/
  | running
  /-- WriteLocked. -/
  | writeLocked
deriving DecidableEq, Repr

/-- What the reference environment ENV0 holds (20_memory R62). -/
structure Env0 where
  /-- The delay. -/
  k : Nat
  /-- The bytes not yet received. -/
  rx : List Byte
  /-- Reads made by the poll in progress. -/
  pollReads : Nat
  /-- The value last written to INIT. -/
  init : BitVec 1
  /-- The value of INIT before that write. -/
  prevInit : BitVec 1
  /-- Reads of INITF since that write. -/
  initReads : Nat
  /-- The word last written to TR. -/
  tr : Word
  /-- The word last written to DATE. -/
  date : Word
deriving DecidableEq, Repr

/-- The environment that answers the reads (00_scope R6, R7; 20_memory R62). -/
inductive Env where
  /-- Any environment: the next answers, oldest first, and free values when the list is used up (log 7). -/
  | oracle (answers : List Word)
  /-- The reference environment. -/
  | env0 (e : Env0)
deriving DecidableEq, Repr

/-- What the host can do (10_state R26 to R30, 60_exceptions R190, 42_eeprom_client R160). That the host is the agent that
resets the block is a DESIGN CHOICE (log 32). -/
inductive HostAction where
  /-- Write a word to CMD. -/
  | cmd (w : Word)
  /-- Write a BUF cell. -/
  | bufWrite (i : BitVec 9) (v : Byte)
  /-- Read a BUF cell. -/
  | bufRead (i : BitVec 9)
  /-- Write a TREC register. -/
  | trecWrite (f : TField) (v : Byte)
  /-- Read a TREC register. -/
  | trecRead (f : TField)
  /-- Read STATUS. -/
  | statusRead
  /-- Reset the block (70_reset R200). DESIGN CHOICE: no rule names the agent, the model makes it the host (log 32). -/
  | reset
  /-- Another agent writes a Register Interface field (60_exceptions R194), log 22. -/
  | foreignWrite (d : Dev) (f : Field) (v : Val)
  /-- The pseudo-instruction EEWRITE. -/
  | eeWrite (b : BitVec 2) (dev : Byte) (page : BitVec 16) (n : Byte)
  /-- The pseudo-instruction EEREAD. -/
  | eeRead (b : BitVec 2) (dev : Byte) (page : BitVec 16) (n : Byte)
deriving DecidableEq, Repr

/-- When the host takes an action (60_exceptions R190, log 18); an idle block never makes it wait. -/
inductive HostTiming where
  /-- Once `STATUS.BUSY` is 0. -/
  | whenIdle
  /-- At the latest after `n` more micro-steps of the running command, before the next one. -/
  | after (n : Nat)
deriving DecidableEq, Repr

/-- A host action still to come, and when the host takes it (log 18, 21). -/
structure HostItem where
  /-- The action. -/
  act : HostAction
  /-- When it is taken. -/
  timing : HostTiming
  /-- The action continues a pseudo-instruction, which ends at a command that leaves `STATUS.ERR` not 0 (42_eeprom R166). -/
  cont : Bool
deriving DecidableEq, Repr

/-- A host port that can be read. -/
inductive HostPort where
  /-- STATUS. -/
  | status
  /-- A BUF cell. -/
  | buf (i : BitVec 9)
  /-- A TREC register. -/
  | trec (f : TField)
deriving DecidableEq, Repr

/-- A host read that has happened, and what it returned. -/
structure Seen where
  /-- The port. -/
  port : HostPort
  /-- The value, zero-extended. -/
  val : Word
deriving DecidableEq, Repr

/-- The state of the machine. -/
structure State where
  /-- MODEL'S OWN: the configuration (00_scope R9), never changed by a step (log 2). -/
  cfg : Config
  /-- The sequencer's position (10_state R21); `STATUS.BUSY` is computed from it (R26). -/
  seq : Seq
  /-- The latched operands (10_state R24). -/
  lat : Lat
  /-- The remaining count (10_state R23). -/
  rem : Byte
  /-- Reads made by the poll in progress, if POLL_LIMIT is finite (10_state R25). -/
  polls : Nat
  /-- `STATUS.ERR` (10_state R26). -/
  err : BitVec 3
  /-- BUF (10_state R27): the cells written since reset, addresses rising; any other cell is unspecified (R47, log 9). -/
  buf : List Host.Cell
  /-- TREC (10_state R28). -/
  trec : TimeRec Byte
  /-- MODEL'S OWN: which TREC registers have been written since reset (10_state R47, log 10). -/
  trecKnown : TimeRec Bool
  /-- `configured[b]` (10_state R31). -/
  configured : Vector Bool 4
  /-- `held[b]` (10_state R34). -/
  held : Vector Bool 4
  /-- `rtc_state` (10_state R32). -/
  rtcState : RtcState
  /-- The trace `tr`, oldest event first (10_state R20). -/
  tr : List Event
  /-- The Register Interface space (20_memory R50): by key, the value of the last completed access to each name (log 20). -/
  ri : List (Nat × Val)
  /-- The environment (00_scope R6, R7). -/
  env : Env
  /-- MODEL'S OWN: the host actions still to come (log 18). -/
  host : List HostItem
  /-- MODEL'S OWN: what the host has read, oldest first (log 19). -/
  seen : List Seen
  /-- MODEL'S OWN: how many free values have been drawn (log 7). -/
  draws : Nat
deriving DecidableEq, Repr

/-- Why the machine stops with a fault. Both are safe: the model stops where the spec's rules give no meaning, and no state
that meets the invariant of Safety.lean raises either (log 25). -/
inductive Fault where
  /-- Raised by the data phase of WRITE and WRDATA and by READ when `rem` is not in 1..cnt at a buffer access or is 0 at a
  decrement, which 20_memory R67 and 40_i2c_master R113 rule out. Safe. -/
  | remOutOfRange
  /-- Raised by every command at a `upc` beyond its micro-step list, which 10_state R22 rules out. Safe. -/
  | noMicroStep
deriving DecidableEq, Repr

/-- Why the model gives no meaning to what happens. All are safe: nothing can be proved of a run that reaches one. -/
inductive Refusal where
  /-- An instruction of the table without a meaning; raised by no arm of `exec`. Safe. -/
  | notModelled (mnemonic : String)
  /-- WRITE, WRDATA or READ with byte count 0 and CHECKED false (30_encoding R76, 93 U1), raised at acceptance. Safe. -/
  | byteCountZero
  /-- A CMD write, or a BUF or TREC access, while busy (60_exceptions R190, 93 U2), raised by the host ports and by a meaning
  called while another command runs. Safe. -/
  | hostWhileBusy
  /-- Another agent writes a Register Interface field while a command runs (60_exceptions R194, 93 U2), raised by the host
  action `foreignWrite`. Safe. -/
  | foreignWriter
  /-- CONFIGURE b while `held[b] = 1` (40_i2c_master R101, 93 U3), raised at acceptance. Safe. -/
  | configureWhileHeld
  /-- EEWRITE or EEREAD beyond the 4096 cells (42_eeprom_client R165, 93 U4), raised at its expansion. Safe. -/
  | eepromRange
  /-- RTCSET with TREC.HOUR, TREC.MIN or TREC.SEC above 99 (41_rtc_sequencer R131, 93 U5), raised at acceptance and at S5
  (log 15). Safe. -/
  | timeFieldOver99
deriving DecidableEq, Repr

/-- The answer of one step. -/
abbrev Result := Host.Outcome State Fault Refusal

/-- The machine right after reset (10_state R47, R48; 70_reset R200). `lat`, `rem`, `polls` and the stored TREC values are
DESIGN CHOICES (log 10, 11); TR is the one Register Interface value the source gives (R48). -/
def State.reset : State where
  cfg := Config.atReset
  seq := .idle
  lat := { b := 0, cnt := 0, off := 0, arg := 0 }
  rem := 0
  polls := 0
  err := 0
  buf := []
  trec := { sec := 0, min := 0, hour := 0, dom := 0, mon := 0, year := 0, dow := 0, dst := 0 }
  trecKnown :=
    { sec := false, min := false, hour := false, dom := false, mon := false, year := false, dow := false, dst := false }
  configured := Vector.replicate 4 false
  held := Vector.replicate 4 false
  rtcState := .uninitialized
  tr := []
  ri := [((RiName.reg .rtc .tr).code, .word 0)]
  env := .oracle []
  host := []
  seen := []
  draws := 0

end Sys2Proof.Machine
end

