-- ==== Sys2Proof/Machine/Environment.lean ====
section
/-! DEFINITION. The environment (00_scope R6, R7) and the reference environment ENV0 (20_memory R62): how a read is answered
and what a write changes there. -/

namespace Sys2Proof.Machine

/-- An answer, the environment after it, and whether the answer was the free value offered. -/
structure Answer where
  /-- The answer, as a 32-bit word; a narrower read keeps its low bits (log 7). -/
  val : Word
  /-- The environment afterwards. -/
  env : Env
  /-- The offered free value was used. -/
  drawn : Bool
deriving DecidableEq, Repr

/-- ENV0's answer to a flag read (20_memory R62 items 1, 2). -/
def env0Flag (e : Env0) (f : Flag) : Answer :=
  if f = .initf then
    { val := (if e.initReads < e.k then e.prevInit else e.init).setWidth 32
      env := .env0 { e with initReads := e.initReads + 1 }, drawn := false }
  else if e.pollReads < e.k then { val := 0, env := .env0 { e with pollReads := e.pollReads + 1 }, drawn := false }
  else { val := 1, env := .env0 { e with pollReads := 0 }, drawn := false }

/-- ENV0's answer to a register read (20_memory R62 items 3 to 6); an exhausted `rx` answers the free value (log 24). -/
def env0Reg (e : Env0) (r : Reg) (free : Word) : Answer :=
  match r with
  | .dr =>
    match e.rx with
    | v :: rest => { val := v.setWidth 32, env := .env0 { e with rx := rest }, drawn := false }
    | [] => { val := free, env := .env0 e, drawn := true }
  | .sr1 => { val := 0, env := .env0 e, drawn := false }
  | .sr2 => { val := 0, env := .env0 e, drawn := false }
  | .wpr => { val := free, env := .env0 e, drawn := true }
  | .tr => { val := e.tr, env := .env0 e, drawn := false }
  | .date => { val := e.date, env := .env0 e, drawn := false }

/-- The answer to a flag read (20_memory R52). -/
def Env.answerFlag (env : Env) (f : Flag) (free : Word) : Answer :=
  match env with
  | .oracle (a :: rest) => { val := a, env := .oracle rest, drawn := false }
  | .oracle [] => { val := free, env := .oracle [], drawn := true }
  | .env0 e => env0Flag e f

/-- The answer to a register read (20_memory R53). -/
def Env.answerReg (env : Env) (r : Reg) (free : Word) : Answer :=
  match env with
  | .oracle (a :: rest) => { val := a, env := .oracle rest, drawn := false }
  | .oracle [] => { val := free, env := .oracle [], drawn := true }
  | .env0 e => env0Reg e r free

/-- What a field write changes in the environment: in ENV0, INIT (20_memory R62 items 2, 7). -/
def Env.onWrF (env : Env) (f : Field) (v : Val) : Env :=
  match env with
  | .oracle as => .oracle as
  | .env0 e =>
    if f = .init ∧ (v = .bit 0 ∨ v = .bit 1) then
      .env0 { e with prevInit := e.init, init := if v = .bit 1 then 1 else 0, initReads := 0 }
    else .env0 e

/-- The word a value is, if it is one. -/
def wordOr (v : Val) (was : Word) : Word :=
  match v with
  | .word x => x
  | .bit _ => was
  | .byte _ => was
  | .num _ => was
  | .sym _ => was

/-- What a register write changes in the environment: in ENV0, TR and DATE (20_memory R62 items 5 to 7). -/
def Env.onWrR (env : Env) (r : Reg) (v : Val) : Env :=
  match env with
  | .oracle as => .oracle as
  | .env0 e =>
    if r = .tr then .env0 { e with tr := wordOr v e.tr }
    else if r = .date then .env0 { e with date := wordOr v e.date }
    else .env0 e

/-- ENV0 counts the reads of each poll anew; a command begins with no poll in progress (20_memory R62 item 1, log 24). -/
def Env.newCommand : Env → Env
  | .env0 e => .env0 { e with pollReads := 0 }
  | .oracle as => .oracle as

/-- ENV0 as a test vector starts it: nothing written, delay `k`, receive stream `rx` (20_memory R62). -/
def Env.fresh (k : Nat) (rx : List Byte) : Env :=
  .env0 { k := k, rx := rx, pollReads := 0, init := 0, prevInit := 0, initReads := 0, tr := 0, date := 0 }

end Sys2Proof.Machine
end

