-- ==== Sys2Proof/Machine/Flags.lean ====
section
/-! DEFINITION. The block's flags: STATUS (10_state R26), the error codes (60_exceptions R181), `configured` and `held`
(10_state R31, R34). -/

namespace Sys2Proof.Machine

/-- The bit of bus `b`. -/
def busGet (v : Vector Bool 4) (b : BitVec 2) : Bool := v[b.toNat]'b.isLt

/-- The bits with that of bus `b` changed. -/
def busSet (v : Vector Bool 4) (b : BitVec 2) (x : Bool) : Vector Bool 4 := v.set b.toNat x b.isLt

/-- `held[b] <- x` (10_state R34). -/
def State.setHeld (b : BitVec 2) (x : Bool) (s : State) : State := { s with held := busSet s.held b x }

/-- `configured[b] <- 1` (10_state R31). -/
def State.setConfigured (b : BitVec 2) (s : State) : State := { s with configured := busSet s.configured b true }

/-- `STATUS.BUSY` is 1 exactly when `seq` is not IDLE (10_state R26). -/
def State.busy (s : State) : Bool := s.seq != .idle

/-- STATUS: BUSY in bit 0, ERR in bits 3:1, the rest 0 (10_state R26). -/
def State.status (s : State) : Word := 0#28 ++ s.err ++ BitVec.ofBool s.busy

/-- The error kinds (60_exceptions R181). -/
inductive ErrKind where
  /-- BusTimeout. -/
  | busTimeout
  /-- ProtocolViolation. -/
  | protocolViolation
  /-- NotInitialized. -/
  | notInitialized
  /-- IllegalCommand. -/
  | illegalCommand
deriving DecidableEq, Repr

/-- The codes (60_exceptions R181). -/
def ErrKind.code : ErrKind → BitVec 3
  | .busTimeout => 1
  | .protocolViolation => 2
  | .notInitialized => 3
  | .illegalCommand => 4

end Sys2Proof.Machine
end

