-- ==== Sys2Proof/WellFormed.lean ====
section
/-! DEFINITION. Which commands and which configurations are well formed: a bus handle below N_BUS (30_encoding R75) and the
constraints 00_scope R9 puts on its parameters. A byte count of 0 is a legal encoding (R76), so it is well formed. -/

namespace Sys2Proof

/-- The bus handle a command names; the RTC commands name none (30_encoding R71). -/
def Instr.bus? : Instr → Option (BitVec 2)
  | .configure b => some b
  | .start b => some b
  | .sendaddr b _ => some b
  | .write b _ _ _ => some b
  | .wrdata b _ _ => some b
  | .read b _ _ _ => some b
  | .stop b => some b
  | .rtcinit => none
  | .rtcset => none
  | .rtcget => none

/-- A command is well formed for `nBus` buses when its bus handle, if it has one, is below `nBus` (30_encoding R75). -/
def Instr.wf (nBus : Nat) (i : Instr) : Bool :=
  match i.bus? with
  | some b => decide (b.toNat < nBus)
  | none => true

/-- The six offsets of a layout. -/
def TrLayout.offsets (l : TrLayout) : List Nat := [l.ht, l.hu, l.mnt, l.mnu, l.st, l.su]

/-- Six disjoint 4-bit fields inside the 32-bit word (41_rtc_sequencer R133). -/
def TrLayout.wf (l : TrLayout) : Bool :=
  l.offsets.all (fun a => decide (a + 4 ≤ 32)) &&
    decide (l.offsets.Pairwise (fun a b => a + 4 ≤ b ∨ b + 4 ≤ a))

/-- The constraints of 00_scope R9: N_BUS in 1..4, POLL_LIMIT positive, LOCK_SENTINEL no key, TR_LAYOUT disjoint. -/
def Config.wf (c : Config) : Bool :=
  decide (1 ≤ c.nBus) && decide (c.nBus ≤ 4) && decide (c.pollLimit ≠ some 0) &&
    decide (c.lockSentinel ≠ Config.key1) && decide (c.lockSentinel ≠ Config.key2) && c.trLayout.wf

end Sys2Proof
end

