-- ==== Sys2Proof/Decode.lean ====
section
/-! DEFINITION. The decoder (30_encoding R70 to R75, R82), total on all words and rejecting by name; the encoder, from the
same field table; the assembler text of R80. -/

namespace Sys2Proof

/-- Why a word is illegal (30_encoding R75). -/
inductive DecodeError where
  /-- `op` is 0x0 or 0xB..0xF. -/
  | reservedOpcode
  /-- `z` is not 0. -/
  | zNotZero
  /-- A field the command's format does not use is not 0. -/
  | unusedFieldNotZero
  /-- An I2C command with `b >= N_BUS`. -/
  | busOutOfRange
deriving DecidableEq, Repr

/-- Bits 31:28 (30_encoding R71). -/
def fieldOp (w : Word) : BitVec 4 := w.extractLsb' 28 4
/-- Bits 27:26 (R71). -/
def fieldB (w : Word) : BitVec 2 := w.extractLsb' 26 2
/-- Bits 25:24 (R71). -/
def fieldZ (w : Word) : BitVec 2 := w.extractLsb' 24 2
/-- Bits 23:16 (R71). -/
def fieldCnt (w : Word) : Byte := w.extractLsb' 16 8
/-- Bits 15:8 (R71). -/
def fieldOff (w : Word) : Byte := w.extractLsb' 8 8
/-- Bits 7:0 (R71). -/
def fieldArg (w : Word) : Byte := w.extractLsb' 0 8

/-- Accept `i` if the fields its format does not use are 0 and its bus handle is below `nBus` (30_encoding R75). -/
def decodeChecked (nBus : Nat) (unusedZero : Bool) (i : Instr) : Except DecodeError Instr :=
  if unusedZero then
    if i.wf nBus then .ok i else .error .busOutOfRange
  else .error .unusedFieldNotZero

/-- Decoding (30_encoding R74, R75, R82): the formats Z, A, T, D, R of R72 say which fields must be 0. -/
def decode (nBus : Nat) (w : Word) : Except DecodeError Instr :=
  let b := fieldB w
  let cnt := fieldCnt w
  let off := fieldOff w
  let arg := fieldArg w
  let unusedZ := cnt == 0 && off == 0 && arg == 0
  let unusedR := b == 0 && unusedZ
  if fieldZ w ≠ 0 then .error .zNotZero
  else
    match (fieldOp w).toNat with
    | 0x1 => decodeChecked nBus unusedZ (.configure b)
    | 0x2 => decodeChecked nBus unusedZ (.start b)
    | 0x3 => decodeChecked nBus (cnt == 0 && off == 0) (.sendaddr b arg)
    | 0x4 => decodeChecked nBus true (.write b arg off cnt)
    | 0x5 => decodeChecked nBus (arg == 0) (.wrdata b off cnt)
    | 0x6 => decodeChecked nBus true (.read b arg off cnt)
    | 0x7 => decodeChecked nBus unusedZ (.stop b)
    | 0x8 => decodeChecked nBus unusedR .rtcinit
    | 0x9 => decodeChecked nBus unusedR .rtcset
    | 0xA => decodeChecked nBus unusedR .rtcget
    | _ => .error .reservedOpcode

/-- The word with the given fields and `z = 0` (30_encoding R71). -/
def packFields (op : BitVec 4) (b : BitVec 2) (cnt off arg : Byte) : Word :=
  op ++ b ++ 0#2 ++ cnt ++ off ++ arg

/-- The opcode of a command (30_encoding R74). -/
def Instr.opcode : Instr → BitVec 4
  | .configure _ => 0x1
  | .start _ => 0x2
  | .sendaddr _ _ => 0x3
  | .write _ _ _ _ => 0x4
  | .wrdata _ _ _ => 0x5
  | .read _ _ _ _ => 0x6
  | .stop _ => 0x7
  | .rtcinit => 0x8
  | .rtcset => 0x9
  | .rtcget => 0xA

/-- The command word of a command (30_encoding R71, R72): a field its format does not use is 0. -/
def encode : Instr → Word
  | .configure b => packFields 0x1 b 0 0 0
  | .start b => packFields 0x2 b 0 0 0
  | .sendaddr b sel => packFields 0x3 b 0 0 sel
  | .write b addr off n => packFields 0x4 b n off addr
  | .wrdata b off n => packFields 0x5 b n off 0
  | .read b addr off n => packFields 0x6 b n off addr
  | .stop b => packFields 0x7 b 0 0 0
  | .rtcinit => packFields 0x8 0 0 0 0
  | .rtcset => packFields 0x9 0 0 0 0
  | .rtcget => packFields 0xA 0 0 0 0

/-- The 7-bit target address of WRITE and READ, `arg[7:1]` (30_encoding R72, R73). -/
def addr7 (addr : Byte) : BitVec 7 := addr.extractLsb' 1 7

/-- The command that the decoder of a machine with the N_BUS of `Config.atReset` reads from the low `nbits` bits of `w`; the
bits above are 0. Every command is one 32-bit word (30_encoding R70). -/
def decodeTableWord (nbits w : Nat) : Option Instr :=
  match decode Config.atReset.nBus (BitVec.ofNat 32 (w % 2 ^ nbits)) with
  | .ok i => some i
  | .error _ => none

/-- Operands in decimal, separated by commas (30_encoding R80). -/
def asmOperands : List Nat → String
  | [] => ""
  | [x] => toString x
  | x :: y :: xs => toString x ++ ", " ++ asmOperands (y :: xs)

/-- The textual form of a command (30_encoding R80). -/
def Instr.asm : Instr → String
  | .configure b => "CONFIGURE " ++ asmOperands [b.toNat]
  | .start b => "START " ++ asmOperands [b.toNat]
  | .sendaddr b sel => "SENDADDR " ++ asmOperands [b.toNat, sel.toNat]
  | .write b addr off n => "WRITE " ++ asmOperands [b.toNat, addr.toNat, off.toNat, n.toNat]
  | .wrdata b off n => "WRDATA " ++ asmOperands [b.toNat, off.toNat, n.toNat]
  | .read b addr off n => "READ " ++ asmOperands [b.toNat, addr.toNat, off.toNat, n.toNat]
  | .stop b => "STOP " ++ asmOperands [b.toNat]
  | .rtcinit => "RTCINIT"
  | .rtcset => "RTCSET"
  | .rtcget => "RTCGET"

end Sys2Proof
end

