-- ==== Sys2Proof/Machine/Memory.lean ====
section
/-! DEFINITION. A sparse store in one canonical form, addresses strictly rising: BUF (20_memory R50a) and the Register
Interface space (R50b) are two of them. An address that is not listed holds nothing the rules give. -/

namespace Sys2Proof.Machine

/-- What the store holds at `a`, if it is listed. -/
def Memory.get? {α : Type} : List (Nat × α) → Nat → Option α
  | [], _ => none
  | (a', v) :: rest, a => if a = a' then some v else Memory.get? rest a

/-- The store with `v` at `a`, in place. -/
def Memory.set {α : Type} : List (Nat × α) → Nat → α → List (Nat × α)
  | [], a, v => [(a, v)]
  | (a', v') :: rest, a, v =>
    if a < a' then (a, v) :: (a', v') :: rest
    else if a = a' then (a, v) :: rest
    else (a', v') :: Memory.set rest a v

/-- The canonical form: addresses below `bound`, strictly rising. -/
abbrev Memory.wf {α : Type} (bound : Nat) (m : List (Nat × α)) : Prop :=
  (∀ p ∈ m, p.1 < bound) ∧ m.Pairwise (fun p q => p.1 < q.1)

end Sys2Proof.Machine
end

