-- ==== Sys2Proof/Machine/Operands.lean ====
section
/-! DEFINITION. Operands: the latched operands of a command (10_state R24), the select byte (30_encoding R73), the buffer
index (20_memory R67), and reads and writes of BUF and TREC (10_state R27, R28, R47). -/

namespace Sys2Proof.Machine

/-- Which command an instruction is. -/
def cmdOf : Instr → Cmd
  | .configure _ => .configure
  | .start _ => .start
  | .sendaddr _ _ => .sendaddr
  | .write _ _ _ _ => .write
  | .wrdata _ _ _ => .wrdata
  | .read _ _ _ _ => .read
  | .stop _ => .stop
  | .rtcinit => .rtcinit
  | .rtcset => .rtcset
  | .rtcget => .rtcget

/-- The operands as they are latched (10_state R24): a field the format does not use is 0. -/
def latOf : Instr → Lat
  | .configure b => { b := b, cnt := 0, off := 0, arg := 0 }
  | .start b => { b := b, cnt := 0, off := 0, arg := 0 }
  | .sendaddr b sel => { b := b, cnt := 0, off := 0, arg := sel }
  | .write b addr off n => { b := b, cnt := n, off := off, arg := addr }
  | .wrdata b off n => { b := b, cnt := n, off := off, arg := 0 }
  | .read b addr off n => { b := b, cnt := n, off := off, arg := addr }
  | .stop b => { b := b, cnt := 0, off := 0, arg := 0 }
  | .rtcinit => { b := 0, cnt := 0, off := 0, arg := 0 }
  | .rtcset => { b := 0, cnt := 0, off := 0, arg := 0 }
  | .rtcget => { b := 0, cnt := 0, off := 0, arg := 0 }

/-- The instruction that a running command and its latched operands are. -/
def instrOf (c : Cmd) (l : Lat) : Instr :=
  match c with
  | .configure => .configure l.b
  | .start => .start l.b
  | .sendaddr => .sendaddr l.b l.arg
  | .write => .write l.b l.arg l.off l.cnt
  | .wrdata => .wrdata l.b l.off l.cnt
  | .read => .read l.b l.arg l.off l.cnt
  | .stop => .stop l.b
  | .rtcinit => .rtcinit
  | .rtcset => .rtcset
  | .rtcget => .rtcget

/-- The running instruction and the index of its next micro-step; none while idle (10_state R21). -/
def State.running (s : State) : Option (Instr × Nat) :=
  match s.seq with
  | .idle => none
  | .run c k => some (instrOf c s.lat, k)

/-- The select byte of WRITE, R/W forced to 0 (30_encoding R73). -/
def selWrite (addr : Byte) : Byte := addr &&& 0xFE

/-- The select byte of READ, R/W forced to 1 (30_encoding R73). -/
def selRead (addr : Byte) : Byte := addr ||| 0x01

/-- The index of the byte moved, `off + cnt - rem`, given `1 <= rem <= cnt` (20_memory R67). -/
def bufIndex (off cnt rem : Byte) : Option Nat :=
  if 1 ≤ rem.toNat ∧ rem.toNat ≤ cnt.toNat then some (off.toNat + cnt.toNat - rem.toNat) else none

/-- Reading a BUF cell: a cell not written since reset reads as a free value, drawn afresh (10_state R47, 93 U9, log 9). -/
def State.readBuf (i : Nat) (s : State) : Byte × State :=
  match Memory.get? s.buf i with
  | some v => (v, s)
  | none => (Config.freeByte s.draws, { s with draws := s.draws + 1 })

/-- Writing a BUF cell. -/
def State.writeBuf (i : Nat) (v : Byte) (s : State) : State := { s with buf := Memory.set s.buf i v }

/-- The value of one TREC register. -/
def trecGet {α : Type} (t : TimeRec α) : TField → α
  | .sec => t.sec
  | .min => t.min
  | .hour => t.hour
  | .dom => t.dom
  | .mon => t.mon
  | .year => t.year
  | .dow => t.dow
  | .dst => t.dst

/-- The record with one register changed. -/
def trecSet {α : Type} (t : TimeRec α) (f : TField) (v : α) : TimeRec α :=
  match f with
  | .sec => { t with sec := v }
  | .min => { t with min := v }
  | .hour => { t with hour := v }
  | .dom => { t with dom := v }
  | .mon => { t with mon := v }
  | .year => { t with year := v }
  | .dow => { t with dow := v }
  | .dst => { t with dst := v }

/-- Reading a TREC register: one not written since reset reads as a free value, drawn afresh (10_state R47, 93 U9, log 10). -/
def State.readTrec (f : TField) (s : State) : Byte × State :=
  if trecGet s.trecKnown f then (trecGet s.trec f, s)
  else (Config.freeByte s.draws, { s with draws := s.draws + 1 })

/-- Writing a TREC register, by the host or by RTCGET. -/
def State.writeTrec (f : TField) (v : Byte) (s : State) : State :=
  { s with trec := trecSet s.trec f v, trecKnown := trecSet s.trecKnown f true }

end Sys2Proof.Machine
end

