-- ==== Sys2Proof/Machine/Ops.lean ====
section
/-! DEFINITION. The shared operations: the four events (20_memory R52 to R55), the poll (R56), the sequencer (10_state R21,
R22), acceptance (30_encoding R82, 60_exceptions R183), and `raise`, the block's only form of exception (60_exceptions R184).
There is no return from one: after `raise` the block is idle and ready (R187). -/

namespace Sys2Proof.Machine

/-- Append an event to the trace and record the value of its name. -/
def State.emit (e : Event) (s : State) : State :=
  { s with tr := s.tr ++ [e], ri := Memory.set s.ri e.name.code e.val }

/-- `WrF(dev, field, v)` (20_memory R54). -/
def State.wrF (d : Dev) (f : Field) (v : Val) (s : State) : State :=
  { s.emit (.wrF d f v) with env := s.env.onWrF f v }

/-- `WrR(dev, reg, v)` (20_memory R55). -/
def State.wrR (d : Dev) (r : Reg) (v : Val) (s : State) : State :=
  { s.emit (.wrR d r v) with env := s.env.onWrR r v }

/-- The state after the environment has given an answer. -/
def State.answered (a : Answer) (s : State) : State :=
  { s with env := a.env, draws := if a.drawn then s.draws + 1 else s.draws }

/-- The environment's answer to the next read of a flag. -/
def State.askFlag (f : Flag) (s : State) : Answer := s.env.answerFlag f (Config.freeAnswer s.draws)

/-- The environment's answer to the next read of a register. -/
def State.askReg (r : Reg) (s : State) : Answer := s.env.answerReg r (Config.freeAnswer s.draws)

/-- The bit that `RdF(dev, flag)` will return. -/
def State.flagBit (f : Flag) (s : State) : BitVec 1 := (s.askFlag f).val.setWidth 1

/-- `RdF(dev, flag)`: the state after it (20_memory R52). -/
def State.rdF (d : Dev) (f : Flag) (s : State) : State := (s.answered (s.askFlag f)).emit (.rdF d f (s.flagBit f))

/-- The word that `RdR` of SR1, SR2, TR or DATE will return. -/
def State.regWord (r : Reg) (s : State) : Word := (s.askReg r).val

/-- `RdR(dev, reg)` of SR1, SR2, TR or DATE: the state after it (20_memory R53). -/
def State.rdWord (d : Dev) (r : Reg) (s : State) : State := (s.answered (s.askReg r)).emit (.rdR d r (.word (s.regWord r)))

/-- The byte that `RdR` of DR will return: "8 bits kept" (20_memory R53). -/
def State.drByte (s : State) : Byte := (s.askReg .dr).val.setWidth 8

/-- `RdR(dev, DR)`: the state after it (20_memory R53). -/
def State.rdDr (d : Dev) (s : State) : State := (s.answered (s.askReg .dr)).emit (.rdR d .dr (.byte s.drByte))

/-- `upc <- k` (10_state R22). -/
def State.goto (k : Nat) (s : State) : State :=
  match s.seq with
  | .idle => s
  | .run c _ => { s with seq := .run c k }

/-- The next micro-step of the list: `upc` advances by one (10_state R22). -/
def State.advance (s : State) : State :=
  match s.seq with
  | .idle => s
  | .run c k => { s with seq := .run c (k + 1) }

/-- `done` (10_state R21). -/
def State.finish (s : State) : State := { s with seq := .idle }

/-- `raise K` (60_exceptions R184): the code into STATUS.ERR, the block idle, nothing saved, nothing undone. -/
def State.raise (k : ErrKind) (s : State) : State := { s with err := k.code, seq := .idle }

/-- `polls <- polls + 1`, only if POLL_LIMIT is finite (20_memory R56). -/
def State.countPoll (s : State) : State :=
  match s.cfg.pollLimit with
  | none => s
  | some _ => { s with polls := s.polls + 1 }

/-- `polls <- 0` (20_memory R56), done when the poll before ends and at acceptance (log 12). -/
def State.clearPolls (s : State) : State := { s with polls := 0 }

/-- One read of `poll(dev, flag, want)` (20_memory R56): one event, then on with `fin` if the flag has the wanted value,
BusTimeout if this was the last read POLL_LIMIT allows, else the same micro-step again. -/
def poll (d : Dev) (f : Flag) (want : BitVec 1) (fin : State → State) (s : State) : Result :=
  let t := (s.rdF d f).countPoll
  if s.flagBit f = want then .next (fin t.clearPolls)
  else if t.cfg.pollLimit = some t.polls then .next (t.raise .busTimeout)
  else .next t

/-- Is the byte count 0 in a command that has one (60_exceptions R183 check 1)? -/
def countIsZero : Instr → Bool
  | .configure _ => false
  | .start _ => false
  | .sendaddr _ _ => false
  | .write _ _ _ n => n == 0
  | .wrdata _ _ n => n == 0
  | .read _ _ _ n => n == 0
  | .stop _ => false
  | .rtcinit => false
  | .rtcset => false
  | .rtcget => false

/-- The bus whose `configured` bit a command needs (60_exceptions R183 check 2): every I2C command but CONFIGURE. -/
def needsConfigured : Instr → Option (BitVec 2)
  | .configure _ => none
  | .start b => some b
  | .sendaddr b _ => some b
  | .write b _ _ _ => some b
  | .wrdata b _ _ => some b
  | .read b _ _ _ => some b
  | .stop b => some b
  | .rtcinit => none
  | .rtcset => none
  | .rtcget => none

/-- The checks made at acceptance when CHECKED, in their order (60_exceptions R183, R186). -/
def acceptCheck (i : Instr) (s : State) : Option ErrKind :=
  if s.cfg.checked then
    if countIsZero i then some .protocolViolation
    else
      match needsConfigured i with
      | some b => if busGet s.configured b then none else some .notInitialized
      | none => none
  else none

/-- `STATUS.ERR <- 0` and the operands latched (30_encoding R82). -/
def State.latch (i : Instr) (s : State) : State := { s with err := 0, lat := latOf i }

/-- `seq <- RUN(cmd, 0)` (30_encoding R82), with no poll in progress. -/
def State.begin (i : Instr) (s : State) : State :=
  { s with seq := .run (cmdOf i) 0, polls := 0, env := s.env.newCommand }

/-- A command is presented while idle (30_encoding R82; 60_exceptions R182, R183, R186): illegal if its bus handle is out of
range (R75, log 26); else latched and checked; `gate` names what the spec refuses of it. -/
def accept (i : Instr) (gate : State → Option Refusal) (s : State) : Result :=
  if i.wf s.cfg.nBus then
    match acceptCheck i s with
    | some k => .next ((s.latch i).raise k)
    | none =>
      match gate s with
      | some r => .refused r
      | none => .next ((s.latch i).begin i)
  else .next (s.raise .illegalCommand)

/-- The shape of every meaning: acceptance while idle, one micro-step while the command itself runs, and no meaning while
another command runs (10_state R21, R30). `body k` is micro-step `k`. -/
def command (i : Instr) (gate : State → Option Refusal) (body : Nat → State → Result) (s : State) : Result :=
  match s.running with
  | none => accept i gate s
  | some (j, k) => if j = i then body k s else .refused .hostWhileBusy

/-- A byte count of 0 has no meaning when CHECKED is false (30_encoding R76, 93 U1). -/
def countGate (n : Byte) (_ : State) : Option Refusal := if n = 0 then some .byteCountZero else none

/-- Nothing is refused. -/
def noGate (_ : State) : Option Refusal := none

end Sys2Proof.Machine
end

