-- ==== Sys2Proof/Machine/I2c.lean ====
section
/-! DEFINITION. The I2C unit's commands (40_i2c_master R100 to R115): the shared phases, then one meaning per command. A
phase takes the index of its micro-step and `fin`, what follows its last one (`State.advance` or `State.finish`). -/

namespace Sys2Proof.Machine

/-- The event `WrF(I2C[b], STOP, 1)`, which clears `held[b]` wherever it is emitted (10_state R34). -/
def State.requestStop (b : BitVec 2) (s : State) : State := (s.wrF (.i2c b) .stop (.bit 1)).setHeld b false

/-- T0 to T2 (R102). -/
def startPhase (b : BitVec 2) (fin : State → State) (k : Nat) (s : State) : Result :=
  match k with
  | 0 => .next (s.wrF (.i2c b) .ack (.bit 1)).advance
  | 1 => .next (s.wrF (.i2c b) .start (.bit 1)).advance
  | 2 => poll (.i2c b) .sb 1 (fun t => fin (t.setHeld b true)) s
  | _ => .fault .noMicroStep

/-- A0 to A3 (R103), and G0 to G3 of R110: the values of SR1 and SR2 are discarded. -/
def addrPhase (b : BitVec 2) (sel : Byte) (fin : State → State) (k : Nat) (s : State) : Result :=
  match k with
  | 0 => .next (s.wrR (.i2c b) .dr (.byte sel)).advance
  | 1 => poll (.i2c b) .addr 1 State.advance s
  | 2 => .next (s.rdWord (.i2c b) .sr1).advance
  | 3 => .next (fin (s.rdWord (.i2c b) .sr2))
  | _ => .fault .noMicroStep

/-- `rem <- rem - 1`, executed only when `rem >= 1` (R113), then `fin`. -/
def countDown (fin : State → State) (s : State) : Result :=
  if s.rem = 0 then .fault .remOutOfRange else .next (fin { s with rem := s.rem - 1 })

/-- W3 (R106): the byte at the buffer index goes to DR. -/
def sendByte (b : BitVec 2) (off cnt : Byte) (s : State) : Result :=
  match bufIndex off cnt s.rem with
  | some i => .next ((s.readBuf i).2.wrR (.i2c b) .dr (.byte (s.readBuf i).1)).advance
  | none => .fault .remOutOfRange

/-- W0 to W5 (R106); `base` is the index of W0 in the command's list, for the jumps. -/
def dataPhase (b : BitVec 2) (off cnt : Byte) (base : Nat) (k : Nat) (s : State) : Result :=
  match k with
  | 0 => .next (State.advance { s with rem := cnt })
  | 1 => .next (if s.rem = 0 then s.goto (base + 5) else s.advance)
  | 2 => poll (.i2c b) .txe 1 State.advance s
  | 3 => sendByte b off cnt s
  | 4 => countDown (State.goto (base + 1)) s
  | 5 => poll (.i2c b) .btf 1 State.finish s
  | _ => .fault .noMicroStep

/-- G7, G11, G16 (R110): the byte taken from DR goes to the buffer index. -/
def takeByte (b : BitVec 2) (off cnt : Byte) (s : State) : Result :=
  match bufIndex off cnt s.rem with
  | some i => .next ((s.rdDr (.i2c b)).writeBuf i s.drByte).advance
  | none => .fault .remOutOfRange

/-- Q0 to Q8, READ of one byte (R109). -/
def readOne (b : BitVec 2) (addr off : Byte) (k : Nat) (s : State) : Result :=
  match k with
  | 0 => .next (s.wrR (.i2c b) .dr (.byte (selRead addr))).advance
  | 1 => poll (.i2c b) .addr 1 State.advance s
  | 2 => .next (s.wrF (.i2c b) .ack (.bit 0)).advance
  | 3 => .next (s.wrF (.i2c b) .pos (.bit 1)).advance
  | 4 => .next (s.rdWord (.i2c b) .sr1).advance
  | 5 => .next (s.rdWord (.i2c b) .sr2).advance
  | 6 => .next (s.requestStop b).advance
  | 7 => poll (.i2c b) .rxne 1 State.advance s
  | 8 => .next (State.finish { (s.rdDr (.i2c b)).writeBuf off.toNat s.drByte with rem := 0 })
  | _ => .fault .noMicroStep

/-- G0 to G17, READ of two or more bytes (R110). -/
def readMany (b : BitVec 2) (addr off cnt : Byte) (k : Nat) (s : State) : Result :=
  match k with
  | 0 => addrPhase b (selRead addr) State.advance 0 s
  | 1 => addrPhase b (selRead addr) State.advance 1 s
  | 2 => addrPhase b (selRead addr) State.advance 2 s
  | 3 => addrPhase b (selRead addr) State.advance 3 s
  | 4 => .next (State.goto 5 { s with rem := cnt })
  | 5 => .next (if s.rem.toNat ≤ 2 then s.goto 10 else s.advance)
  | 6 => poll (.i2c b) .rxne 1 State.advance s
  | 7 => takeByte b off cnt s
  | 8 => .next (s.wrF (.i2c b) .ack (.bit 1)).advance
  | 9 => countDown (State.goto 5) s
  | 10 => poll (.i2c b) .rxne 1 State.advance s
  | 11 => takeByte b off cnt s
  | 12 => .next (s.wrF (.i2c b) .ack (.bit 0)).advance
  | 13 => .next (s.requestStop b).advance
  | 14 => countDown State.advance s
  | 15 => poll (.i2c b) .rxne 1 State.advance s
  | 16 => takeByte b off cnt s
  | 17 => countDown State.finish s
  | _ => .fault .noMicroStep

/-- Where the list of READ of two or more bytes starts: at G0, or at G4 if RD_ADDR_ALL is false (R111, log 13). -/
def readManyIndex (rdAddrAll : Bool) (k : Nat) : Nat := if k = 0 ∧ rdAddrAll = false then 4 else k

/-- The writes C0 to C11 of CONFIGURE, in order (R101). -/
def configureWrites (c : Config) (b : BitVec 2) : List (Dev × Field × Val) :=
  [(.plat b, .i2cClkEn, .bit 1), (.plat b, .gpioClkEn, .bit 1), (.plat b, .pinMode, .num c.afVal),
   (.plat b, .pinOtype, .sym .od), (.plat b, .pinPull, .sym .up), (.plat b, .pinSpeed, .num c.speedVal),
   (.i2c b, .swrst, .bit 1), (.i2c b, .swrst, .bit 0), (.i2c b, .freq, .num c.freqVal), (.i2c b, .ccr, .num c.ccrVal),
   (.i2c b, .trise, .num c.triseVal), (.i2c b, .pe, .bit 1)]

/-- Micro-step `k` of CONFIGURE (R101): C11 also sets `configured[b]` and ends the command. -/
def configureStep (b : BitVec 2) (k : Nat) (s : State) : Result :=
  match (configureWrites s.cfg b)[k]? with
  | some (d, f, v) => .next (if k = 11 then ((s.wrF d f v).setConfigured b).finish else (s.wrF d f v).advance)
  | none => .fault .noMicroStep

/-- CONFIGURE while `held[b] = 1` has no meaning (R101, 93 U3, log 16). -/
def configureGate (b : BitVec 2) (s : State) : Option Refusal := if busGet s.held b then some .configureWhileHeld else none

/-- CONFIGURE b (R101). -/
def execConfigure (b : BitVec 2) (s : State) : Result :=
  command (.configure b) (configureGate b) (configureStep b) s

/-- START b (R102). -/
def execStart (b : BitVec 2) (s : State) : Result :=
  command (.start b) noGate (startPhase b State.finish) s

/-- SENDADDR b, sel (R103): the select byte as given. -/
def execSendaddr (b : BitVec 2) (sel : Byte) (s : State) : Result :=
  command (.sendaddr b sel) noGate (addrPhase b sel State.finish) s

/-- Micro-step `k` of WRITE (R105): T0 to T2, A0 to A3 with the write select byte, W0 to W5. -/
def writeStep (b : BitVec 2) (addr off n : Byte) (k : Nat) (s : State) : Result :=
  if k < 3 then startPhase b State.advance k s
  else if k < 7 then addrPhase b (selWrite addr) State.advance (k - 3) s
  else dataPhase b off n 7 (k - 7) s

/-- WRITE b, addr, off, n (R105). -/
def execWrite (b : BitVec 2) (addr off n : Byte) (s : State) : Result :=
  command (.write b addr off n) (countGate n) (writeStep b addr off n) s

/-- WRDATA b, off, n (R107): the data phase alone. -/
def execWrdata (b : BitVec 2) (off n : Byte) (s : State) : Result :=
  command (.wrdata b off n) (countGate n) (dataPhase b off n 0) s

/-- Micro-step `k` of READ (R108): one byte, or two or more. -/
def readStep (b : BitVec 2) (addr off n : Byte) (k : Nat) (s : State) : Result :=
  if n = 1 then readOne b addr off k s
  else readMany b addr off n (readManyIndex s.cfg.rdAddrAll k) s

/-- READ b, addr, off, n (R108 to R111). -/
def execRead (b : BitVec 2) (addr off n : Byte) (s : State) : Result :=
  command (.read b addr off n) (countGate n) (readStep b addr off n) s

/-- Micro-step P0 of STOP (R104). -/
def stopStep (b : BitVec 2) (k : Nat) (s : State) : Result :=
  match k with
  | 0 => .next (s.requestStop b).finish
  | _ => .fault .noMicroStep

/-- STOP b (R104). -/
def execStop (b : BitVec 2) (s : State) : Result :=
  command (.stop b) noGate (stopStep b) s

end Sys2Proof.Machine
end

