-- ==== Sys2Proof/Machine/Bcd.lean ====
section
/-! DEFINITION. Binary-coded decimal and the time register word (41_rtc_sequencer R131 to R134). -/

namespace Sys2Proof.Machine

/-- `bcd_enc(v)`, defined for `v <= 99` only (41_rtc_sequencer R131). -/
def bcdEnc (v : Byte) : Option Byte :=
  if v.toNat ≤ 99 then some ((v / 10) <<< 4 ||| v % 10) else none

/-- `bcd_dec(t, u) = 10*t + u`, for any two digits (41_rtc_sequencer R132). -/
def bcdDec (t u : BitVec 4) : Byte := 10 * t.setWidth 8 + u.setWidth 8

/-- Bits 7:4 of a BCD byte, the tens digit (20_memory R59). -/
def tensOf (x : Byte) : BitVec 4 := x.extractLsb' 4 4

/-- Bits 3:0 of a BCD byte, the units digit (20_memory R59). -/
def unitsOf (x : Byte) : BitVec 4 := x.extractLsb' 0 4

/-- One digit placed at an offset of the word. -/
def digitAt (d : BitVec 4) (o : Nat) : Word := d.setWidth 32 <<< o

/-- `pack_tr(h, m, s)`, defined when all three are at most 99 (41_rtc_sequencer R131, R133). -/
def packTr (l : TrLayout) (h m s : Byte) : Option Word :=
  match bcdEnc h, bcdEnc m, bcdEnc s with
  | some H, some M, some S =>
    some (digitAt (tensOf H) l.ht ||| digitAt (unitsOf H) l.hu ||| digitAt (tensOf M) l.mnt ||| digitAt (unitsOf M) l.mnu |||
      digitAt (tensOf S) l.st ||| digitAt (unitsOf S) l.su)
  | _, _, _ => none

/-- Hours, minutes, seconds. -/
structure Hms where
  /-- Hours. -/
  hour : Byte
  /-- Minutes. -/
  min : Byte
  /-- Seconds. -/
  sec : Byte
deriving DecidableEq, Repr

/-- `unpack_tr(w)`: the six digit fields, other bits ignored (41_rtc_sequencer R134). -/
def unpackTr (l : TrLayout) (w : Word) : Hms where
  hour := bcdDec (w.extractLsb' l.ht 4) (w.extractLsb' l.hu 4)
  min := bcdDec (w.extractLsb' l.mnt 4) (w.extractLsb' l.mnu 4)
  sec := bcdDec (w.extractLsb' l.st 4) (w.extractLsb' l.su 4)

end Sys2Proof.Machine
end

