-- ==== Sys2Proof/Machine/Rtc.lean ====
section
/-! DEFINITION. The RTC unit's commands (41_rtc_sequencer R130, R135 to R137), with the `rtc_state` updates of 10_state R33. -/

namespace Sys2Proof.Machine

/-- `rtc_state <- x` (10_state R33). -/
def State.setRtc (x : RtcState) (s : State) : State := { s with rtcState := x }

/-- I0 to I16 (R135). -/
def rtcinitStep (k : Nat) (s : State) : Result :=
  match k with
  | 0 => .next ((s.wrF .rcc .pwrClkEn (.bit 1)).setRtc .clockEnabling).advance
  | 1 => .next (s.wrF .pwr .bkpWrEn (.bit 1)).advance
  | 2 => .next (s.wrF .bdc .lseOn (.bit 1)).advance
  | 3 => poll .bdc .lseRdy 1 State.advance s
  | 4 => .next (s.wrF .bdc .rtcSrc (.sym .lse)).advance
  | 5 => .next (s.wrF .bdc .rtcEn (.bit 1)).advance
  | 6 => .next (s.wrR .rtc .wpr (.byte Config.key1)).advance
  | 7 => .next ((s.wrR .rtc .wpr (.byte Config.key2)).setRtc .writeUnlocked).advance
  | 8 => .next (s.wrF .rtc .init (.bit 1)).advance
  | 9 => poll .rtc .initf 1 (fun t => (t.setRtc .initMode).advance) s
  | 10 => .next (s.wrF .rtc .predivS (.num s.cfg.predivSVal)).advance
  | 11 => .next (s.wrF .rtc .predivA (.num s.cfg.predivAVal)).advance
  | 12 => .next (s.wrF .rtc .fmt (.sym .h24)).advance
  | 13 => .next (s.wrF .rtc .init (.bit 0)).advance
  | 14 => poll .rtc .initf 0 (fun t => (t.setRtc .writeUnlocked).advance) s
  | 15 => .next ((s.wrR .rtc .wpr (.byte s.cfg.lockSentinel)).setRtc .writeLocked).advance
  | 16 => .next ((s.wrF .pwr .bkpWrEn (.bit 0)).setRtc .running).finish
  | _ => .fault .noMicroStep

/-- TREC.HOUR, TREC.MIN, TREC.SEC read in this order; a register not written since reset is a free value (log 10). -/
def State.sampleHour (s : State) : Byte × State := s.readTrec .hour

/-- The second of the three reads, after the first. -/
def State.sampleMin (s : State) : Byte × State := s.sampleHour.2.readTrec .min

/-- The third of the three reads, after the other two. -/
def State.sampleSec (s : State) : Byte × State := s.sampleMin.2.readTrec .sec

/-- S5 (R136): TR is written once, whole; a value above 99 has no meaning (R131, 93 U5). -/
def writeTime (s : State) : Result :=
  match packTr s.cfg.trLayout s.sampleHour.1 s.sampleMin.1 s.sampleSec.1 with
  | some w => .next (s.sampleSec.2.wrR .rtc .tr (.word w)).advance
  | none => .refused .timeFieldOver99

/-- S0 to S9 (R136); WriteLocked is held only between the S9 write and `done`. -/
def rtcsetStep (k : Nat) (s : State) : Result :=
  match k with
  | 0 => .next (s.wrF .pwr .bkpWrEn (.bit 1)).advance
  | 1 => .next (s.wrR .rtc .wpr (.byte Config.key1)).advance
  | 2 => .next ((s.wrR .rtc .wpr (.byte Config.key2)).setRtc .writeUnlocked).advance
  | 3 => .next (s.wrF .rtc .init (.bit 1)).advance
  | 4 => poll .rtc .initf 1 (fun t => (t.setRtc .initMode).advance) s
  | 5 => writeTime s
  | 6 => .next (s.wrR .rtc .date (.word s.cfg.datePlaceholder)).advance
  | 7 => .next (s.wrF .rtc .init (.bit 0)).advance
  | 8 => poll .rtc .initf 0 (fun t => (t.setRtc .writeUnlocked).advance) s
  | 9 => .next (((s.wrR .rtc .wpr (.byte s.cfg.lockSentinel)).setRtc .writeLocked).setRtc .running).finish
  | _ => .fault .noMicroStep

/-- Is a TREC register that has been written since reset above 99? -/
def trecOver99 (f : TField) (s : State) : Bool := trecGet s.trecKnown f && decide (99 < (trecGet s.trec f).toNat)

/-- RTCSET with HOUR, MIN or SEC above 99 has no meaning (R131, 93 U5); S5 samples what acceptance saw (R136, log 15). -/
def rtcsetGate (s : State) : Option Refusal :=
  if trecOver99 .hour s || trecOver99 .min s || trecOver99 .sec s then some .timeFieldOver99 else none

/-- Y1 (R137): TR is read once and HOUR, MIN, SEC all come from that word. -/
def State.takeTime (s : State) : State :=
  let x := unpackTr s.cfg.trLayout (s.regWord .tr)
  (((s.rdWord .rtc .tr).writeTrec .hour x.hour).writeTrec .min x.min).writeTrec .sec x.sec

/-- Y0 to Y2 (R137); the value of DATE is discarded. -/
def rtcgetStep (k : Nat) (s : State) : Result :=
  match k with
  | 0 => poll .rtc .rsf 1 State.advance s
  | 1 => .next s.takeTime.advance
  | 2 => .next (s.rdWord .rtc .date).finish
  | _ => .fault .noMicroStep

/-- RTCINIT (R135). -/
def execRtcinit (s : State) : Result := command .rtcinit noGate rtcinitStep s

/-- RTCSET (R136). -/
def execRtcset (s : State) : Result := command .rtcset rtcsetGate rtcsetStep s

/-- RTCGET (R137). -/
def execRtcget (s : State) : Result := command .rtcget noGate rtcgetStep s

end Sys2Proof.Machine
end

