-- ==== Sys2Proof/Machine/Dispatch.lean ====
section
/-! DEFINITION. One arm per command (00_scope R2): acceptance while idle, one micro-step while the command runs. -/

namespace Sys2Proof.Machine

def exec (i : Instr) (s : State) : Host.Outcome State Fault Refusal :=
  match i with
  | .configure b => Sys2Proof.Machine.execConfigure b s
  | .start b => Sys2Proof.Machine.execStart b s
  | .sendaddr b sel => Sys2Proof.Machine.execSendaddr b sel s
  | .write b addr off n => Sys2Proof.Machine.execWrite b addr off n s
  | .wrdata b off n => Sys2Proof.Machine.execWrdata b off n s
  | .read b addr off n => Sys2Proof.Machine.execRead b addr off n s
  | .stop b => Sys2Proof.Machine.execStop b s
  | .rtcinit => Sys2Proof.Machine.execRtcinit s
  | .rtcset => Sys2Proof.Machine.execRtcset s
  | .rtcget => Sys2Proof.Machine.execRtcget s

end Sys2Proof.Machine
end

