-- ==== Sys2Proof/Machine/Eeprom.lean ====
section
/-! DEFINITION. The EEPROM client's pseudo-instructions as expansions into host actions (42_eeprom_client R160 to R166). -/

namespace Sys2Proof.Machine

/-- A host action that waits for `STATUS.BUSY = 0`. -/
def hostWaits (a : HostAction) : HostItem := { act := a, timing := .whenIdle, cont := false }

/-- A command of an expansion after its first: it is issued only if the commands before it ended with ERR 0 (R166). -/
def hostContinues (i : Instr) : HostItem := { act := .cmd (encode i), timing := .whenIdle, cont := true }

/-- The bound of R160 and R165: `page` in 0..4095 and `page + n - 1 < PAGE_NUM`. -/
def eepromInRange (page : BitVec 16) (n : Byte) : Bool :=
  decide (page.toNat < Config.pageNum) && decide (page.toNat + n.toNat ≤ Config.pageNum)

/-- The address bytes into BUF[0..1], high byte first (R160, R161). -/
def eepromAddress (page : BitVec 16) : List HostItem :=
  [hostWaits (.bufWrite 0 (page.extractLsb' 8 8)), hostWaits (.bufWrite 1 (page.extractLsb' 0 8))]

/-- The expansion of EEWRITE (R162). -/
def eeWriteExpansion (b : BitVec 2) (dev : Byte) (page : BitVec 16) (n : Byte) : List HostItem :=
  eepromAddress page ++
    [hostWaits (.cmd (encode (.start b))), hostContinues (.sendaddr b (dev &&& 0xFE)), hostContinues (.wrdata b 0 2),
     hostContinues (.wrdata b 2 n), hostContinues (.stop b)]

/-- The expansion of EEREAD, in the reference form (R163) or with the address sent first (R164). -/
def eeReadExpansion (addrFirst : Bool) (b : BitVec 2) (dev : Byte) (page : BitVec 16) (n : Byte) : List HostItem :=
  eepromAddress page ++ [hostWaits (.cmd (encode (.start b)))] ++
    (if addrFirst then
      [hostContinues (.sendaddr b (dev &&& 0xFE)), hostContinues (.wrdata b 0 2), hostContinues (.start b)]
    else []) ++
    [hostContinues (.sendaddr b (dev ||| 0x01)), hostContinues (.read b dev 2 n), hostContinues (.stop b)]

end Sys2Proof.Machine
end

