-- ==== Sys2Proof/Machine/Ports.lean ====
section
/-! DEFINITION. The host's side of the block: CMD, STATUS, BUF, TREC, reset (10_state R26 to R30, 30_encoding R82,
60_exceptions R190, 70_reset R200), another writer (R194), and the pseudo-instructions (42_eeprom_client). -/

namespace Sys2Proof.Machine

/-- A word written to CMD (30_encoding R82): decoded and accepted, or STATUS.ERR <- 4 and nothing else (60_exceptions R182). -/
def writeCmd (w : Word) (s : State) : Result :=
  match decode s.cfg.nBus w with
  | .ok i => exec i s
  | .error _ => .next (s.raise .illegalCommand)

/-- What the host may do only while the block is idle (60_exceptions R190, 93 U2). -/
def whenIdle (s : State) (r : Result) : Result := if s.busy then .refused .hostWhileBusy else r

/-- The host has read `v` from a port (log 19). -/
def State.see (p : HostPort) (v : Word) (s : State) : State := { s with seen := s.seen ++ [{ port := p, val := v }] }

/-- Reset of the block (70_reset R200, 10_state R47). It emits no event and is not a reset of the environment (R201): the
Register Interface, the environment, the host and the configuration stay (log 23). -/
def State.blockReset (s : State) : State :=
  { State.reset with
    cfg := s.cfg, ri := s.ri, env := s.env, host := s.host, seen := s.seen, draws := s.draws }

/-- Another agent has written a Register Interface field (log 22). It is no event of the block. -/
def State.foreign (d : Dev) (f : Field) (v : Val) (s : State) : State :=
  { s with ri := Memory.set s.ri (RiName.field d f).code v }

/-- A pseudo-instruction becomes its expansion (42_eeprom_client R162 to R165); beyond the cells it has no meaning (93 U4). -/
def expand (ok : Bool) (items : List HostItem) (s : State) : Result :=
  if ok then .next { s with host := items ++ s.host } else .refused .eepromRange

/-- One host action; `s` no longer lists it. That `reset` is one is a DESIGN CHOICE (log 32). -/
def hostAct (a : HostAction) (s : State) : Result :=
  match a with
  | .cmd w => whenIdle s (writeCmd w s)
  | .bufWrite i v => whenIdle s (.next (s.writeBuf i.toNat v))
  | .bufRead i => whenIdle s (.next ((s.readBuf i.toNat).2.see (.buf i) ((s.readBuf i.toNat).1.setWidth 32)))
  | .trecWrite f v => whenIdle s (.next (s.writeTrec f v))
  | .trecRead f => whenIdle s (.next ((s.readTrec f).2.see (.trec f) ((s.readTrec f).1.setWidth 32)))
  | .statusRead => .next (s.see .status s.status)
  | .reset => .next s.blockReset
  | .foreignWrite d f v => if s.busy then .refused .foreignWriter else .next (s.foreign d f v)
  | .eeWrite b dev page n => whenIdle s (expand (eepromInRange page n) (eeWriteExpansion b dev page n) s)
  | .eeRead b dev page n =>
    whenIdle s (expand (eepromInRange page n) (eeReadExpansion s.cfg.eeAddrBeforeRead b dev page n) s)

/-- Does the pseudo-instruction in progress end here (42_eeprom_client R166)? -/
def expansionEnds (it : HostItem) (s : State) : Bool := it.cont && !s.busy && s.err != 0

/-- The host's next action; `s` no longer lists it. An expansion that has ended loses its remaining commands (R166). -/
def hostTurn (it : HostItem) (s : State) : Result :=
  if expansionEnds it s then .next { s with host := s.host.dropWhile (fun x => x.cont) } else hostAct it.act s

/-- Is it the host's turn: is the block idle, or has the action's moment come (60_exceptions R190, log 18)? -/
def HostItem.due (it : HostItem) (s : State) : Bool := !s.busy || it.timing == .after 0

/-- The action after one more micro-step of the running command. -/
def HostItem.waited (it : HostItem) : HostItem :=
  match it.timing with
  | .whenIdle => it
  | .after n => { it with timing := .after (n - 1) }

/-- The sequencer's turn: one micro-step of the running command; idle, "the block takes no step" (10_state R21). -/
def sequencerTurn (s : State) : Result :=
  match s.running with
  | some (i, _) => exec i s
  | none => .next s

/-- The state in which the next thing the host does is to write the low `nbits` bits of `w` to CMD, the block idle. -/
def State.presentWord (s : State) (nbits w : Nat) : State :=
  { s with seq := .idle, host := hostWaits (.cmd (BitVec.ofNat 32 (w % 2 ^ nbits))) :: s.host }

end Sys2Proof.Machine
end

