-- ==== Sys2Proof/Machine/Step.lean ====
section
/-! DEFINITION. One step of the machine (00_scope R6): the host takes its next action if the block is idle or the action's
moment has come, else the sequencer takes one micro-step (log 1, 18). -/

namespace Sys2Proof.Machine

/-- One step. -/
def step (s : State) : Host.Outcome State Fault Refusal :=
  match s.host with
  | [] => sequencerTurn s
  | it :: rest =>
    if it.due s then hostTurn it { s with host := rest } else sequencerTurn { s with host := it.waited :: rest }

/-- The state whose next step presents the low `nbits` bits of `w` to the decoder: the host's next action is to write that
word to CMD, and the block is idle (10_state R30, 30_encoding R82; log 18). -/
def State.withFetchWord (s : State) (nbits w : Nat) : State := s.presentWord nbits w

end Sys2Proof.Machine
end

