-- ==== Sys2Proof/Machine/Trace.lean ====
section
/-! DEFINITION. Readings of the trace (00_scope R12, R15; 10_state R34, R35): the TX and RX projections, and counts of waits. -/

namespace Sys2Proof.Machine

/-- An item of the TX projection (00_scope R12). -/
inductive TxItem where
  /-- S, a start. -/
  | s
  /-- Sr, a repeated start (10_state R35). -/
  | sr
  /-- A byte written to DR. -/
  | byte (v : Byte)
  /-- P, a stop. -/
  | p
deriving DecidableEq, Repr

/-- Is bus `b` held after this event: set when a START completes (SB observed set), cleared at every STOP write (10_state R34)? -/
def heldAfter (b : BitVec 2) (was : Bool) (e : Event) : Bool :=
  if e = .rdF (.i2c b) .sb 1 then true
  else if e = .wrF (.i2c b) .stop (.bit 1) then false
  else was

/-- Is bus `b` held after a trace that began with the bus not held? -/
def heldByTrace (b : BitVec 2) (tr : List Event) : Bool := tr.foldl (heldAfter b) false

/-- The item one event contributes on bus `b`, given whether the bus was held (00_scope R12). -/
def txItem (b : BitVec 2) (held : Bool) (e : Event) : List TxItem :=
  match e with
  | .wrF d f v =>
    if d = .i2c b ∧ f = .start ∧ v = .bit 1 then [if held then .sr else .s]
    else if d = .i2c b ∧ f = .stop ∧ v = .bit 1 then [.p]
    else []
  | .wrR d r (.byte v) => if d = .i2c b ∧ r = .dr then [.byte v] else []
  | .wrR _ _ (.bit _) => []
  | .wrR _ _ (.word _) => []
  | .wrR _ _ (.num _) => []
  | .wrR _ _ (.sym _) => []
  | .rdF _ _ _ => []
  | .rdR _ _ _ => []

/-- The TX projection from a point where the bus is held or not. -/
def txFrom (b : BitVec 2) : Bool → List Event → List TxItem
  | _, [] => []
  | held, e :: rest => txItem b held e ++ txFrom b (heldAfter b held e) rest

/-- The TX projection of a trace on bus `b` (00_scope R12). -/
def txProjection (b : BitVec 2) (tr : List Event) : List TxItem := txFrom b false tr

/-- The RX projection of a trace on bus `b`: the values `RdR(I2C[b], DR)` returned (00_scope R12). -/
def rxProjection (b : BitVec 2) : List Event → List Val
  | [] => []
  | e :: rest =>
    match e with
    | .rdR d r v => if d = .i2c b ∧ r = .dr then v :: rxProjection b rest else rxProjection b rest
    | .rdF _ _ _ => rxProjection b rest
    | .wrF _ _ _ => rxProjection b rest
    | .wrR _ _ _ => rxProjection b rest

/-- The value a poll waits for: on INITF the value last written to INIT (I9, S4 follow INIT = 1, I14, S8 follow INIT = 0; 41_rtc_sequencer
R135, R136), on every other flag 1 (40_i2c_master R102 to R110, 41_rtc_sequencer R135, R137). -/
def wantedOf (init : BitVec 1) (f : Flag) : BitVec 1 := if f = .initf then init else 1

/-- The value last written to INIT, after one more event. -/
def initAfter (was : BitVec 1) (e : Event) : BitVec 1 :=
  if e = .wrF .rtc .init (.bit 1) then 1 else if e = .wrF .rtc .init (.bit 0) then 0 else was

/-- The failed reads of the poll in progress after one more event, 0 if none is (20_memory R56): a read of the wanted value
ends the poll, so does the last read POLL_LIMIT allows, and any event that is no flag read comes after its end. -/
def failsAfter (limit : Option Nat) (init : BitVec 1) (fails : Nat) (e : Event) : Nat :=
  match e with
  | .rdF _ f v => if v = wantedOf init f ∨ limit = some (fails + 1) then 0 else fails + 1
  | .rdR _ _ _ => 0
  | .wrF _ _ _ => 0
  | .wrR _ _ _ => 0

/-- Does this event begin an execution of `poll(dev, flag, want)`, given the failed reads of the poll in progress? -/
def beginsWait (d : Dev) (f : Flag) (want init : BitVec 1) (fails : Nat) (e : Event) : Bool :=
  fails == 0 && e.name == .flag d f && wantedOf init f == want

/-- The waits from a point where INIT was last written `init` and the poll in progress has failed `fails` times. -/
def waitsFrom (limit : Option Nat) (d : Dev) (f : Flag) (want : BitVec 1) : BitVec 1 → Nat → List Event → Nat
  | _, _, [] => 0
  | init, fails, e :: rest =>
    (if beginsWait d f want init fails e then 1 else 0) +
      waitsFrom limit d f want (initAfter init e) (failsAfter limit init fails e) rest

/-- How many waits for `want` on a flag a trace of the block has: executions of `poll`, not reads (00_scope R15, 20_memory R56).
`limit` is POLL_LIMIT, which tells a poll that timed out from the next one on the same flag. -/
def waits (limit : Option Nat) (d : Dev) (f : Flag) (want : BitVec 1) (tr : List Event) : Nat := waitsFrom limit d f want 0 0 tr

end Sys2Proof.Machine
end

