-- ==== Sys2Proof/Safety.lean ====
section
/-! DEFINITION. The terms claims are stated in: running one command, what one micro-step leaves unchanged, the polls, the
invariant of the machine, and the protocol windows of the RTC. -/

namespace Sys2Proof.Machine

/-- `n` calls of `exec i`: from an idle state, acceptance and the first `n - 1` micro-steps of `i`. -/
def runExec (i : Instr) : Nat → State → Result
  | 0, s => .next s
  | n + 1, s =>
    match exec i s with
    | .next t => runExec i n t
    | .fault r => .fault r
    | .refused r => .refused r

/-- A command presented at `s` ends at `t`, for the first time since, after its acceptance and `m` micro-steps. -/
def Ends (i : Instr) (m : Nat) (s t : State) : Prop :=
  (∀ j, j < m → ∃ u, runExec i (j + 1) s = .next u ∧ u.seq ≠ .idle) ∧ runExec i (m + 1) s = .next t ∧ t.seq = .idle

/-- `n` steps of the machine. -/
def runStep : Nat → State → Result
  | 0, s => .next s
  | n + 1, s =>
    match step s with
    | .next t => runStep n t
    | .fault r => .fault r
    | .refused r => .refused r

/-- The Register Interface record after a list of events. -/
def record (ri : List (Nat × Val)) (es : List Event) : List (Nat × Val) :=
  es.foldl (fun m e => Memory.set m e.name.code e.val) ri

/-- `t` is `s` with the events `es` emitted and the sequencer at `q`; everything else of the block is as in `s` (the
environment, which answers reads, and the count of free values may move on). -/
def StepTo (s t : State) (es : List Event) (q : Seq) : Prop :=
  t = { s with tr := s.tr ++ es, ri := record s.ri es, seq := q, env := t.env, draws := t.draws }

/-- The state in which a command has been accepted and all its events emitted, before its other effects: STATUS.ERR 0, the
operands latched, no poll in progress (30_encoding R82). -/
def State.accepted (i : Instr) (s : State) : State := { s with err := 0, lat := latOf i, polls := 0 }

/-- The values 10_state R47 and 70_reset R200 give the block after reset. -/
def AtReset (t : State) : Prop :=
  t.seq = .idle ∧ t.status = 0 ∧ (∀ b, busGet t.configured b = false ∧ busGet t.held b = false) ∧
    t.rtcState = .uninitialized ∧ t.tr = []

/-- The acceptance conditions of an I2C command other than CONFIGURE on bus `b`: idle, a bus that exists, and configured if
CHECKED (30_encoding R75, R82; 60_exceptions R183). -/
def Ready (b : BitVec 2) (s : State) : Prop :=
  s.seq = .idle ∧ b.toNat < s.cfg.nBus ∧ (s.cfg.checked = true → busGet s.configured b = true)

/-- The conditions under which CHECKED raises nothing and the spec refuses nothing of a command at acceptance (30_encoding R76,
40_i2c_master R101, 41_rtc_sequencer R131, 60_exceptions R183). -/
def Acceptable (i : Instr) (s : State) : Prop :=
  i.wf s.cfg.nBus = true ∧ countIsZero i = false ∧
    (s.cfg.checked = true → ∀ b, needsConfigured i = some b → busGet s.configured b = true) ∧
    (∀ b, i = .configure b → busGet s.held b = false) ∧
    (i = .rtcset → trecOver99 .hour s = false ∧ trecOver99 .min s = false ∧ trecOver99 .sec s = false)

/-- A word is illegal (30_encoding R75), said on its bits. -/
def IllegalWord (nBus : Nat) (w : Word) : Prop :=
  let op := (w.extractLsb' 28 4).toNat
  op = 0 ∨ 0xB ≤ op ∨ w.extractLsb' 24 2 ≠ 0 ∨
    ((op = 1 ∨ op = 2 ∨ op = 7) ∧ w.extractLsb' 0 24 ≠ 0) ∨
    (op = 3 ∧ w.extractLsb' 8 16 ≠ 0) ∨
    (op = 5 ∧ w.extractLsb' 0 8 ≠ 0) ∨
    ((op = 8 ∨ op = 9 ∨ op = 0xA) ∧ w.extractLsb' 0 28 ≠ 0) ∨
    (1 ≤ op ∧ op ≤ 7 ∧ nBus ≤ (w.extractLsb' 26 2).toNat)

/-- Bytes written to rising addresses. -/
def writeBytes (m : List Host.Cell) (a : Nat) : List Byte → List Host.Cell
  | [] => m
  | v :: vs => writeBytes (Memory.set m a v) (a + 1) vs

/-- What the environment answers to one execution of `poll`: values that are not wanted, then one that is (20_memory R56). -/
structure Wait where
  /-- The answers that keep the poll waiting. -/
  fails : List Word
  /-- The answer that ends it. -/
  last : Word
deriving DecidableEq, Repr

/-- The answers in order. -/
def Wait.answers (w : Wait) : List Word := w.fails ++ [w.last]

/-- The answers satisfy a poll for `want`, and before POLL_LIMIT, if it is finite, is reached. -/
def Wait.ok (want : BitVec 1) (limit : Option Nat) (w : Wait) : Prop :=
  (∀ a ∈ w.fails, a.setWidth 1 ≠ want) ∧ w.last.setWidth 1 = want ∧ ∀ l, limit = some l → w.fails.length < l

/-- The events of the poll: one read for each answer. -/
def Wait.events (d : Dev) (f : Flag) (want : BitVec 1) (w : Wait) : List Event :=
  List.replicate w.fails.length (.rdF d f (~~~want)) ++ [.rdF d f want]

/-- The events of the data phase sending these bytes, each after its TXE wait, and of the BTF wait (40_i2c_master R106). -/
def dataEvents (b : BitVec 2) (sent : List (Wait × Byte)) (btf : Wait) : List Event :=
  sent.flatMap (fun p => p.1.events (.i2c b) .txe 1 ++ [.wrR (.i2c b) .dr (.byte p.2)]) ++ btf.events (.i2c b) .btf 1

/-- The events of a READ of these bytes, two or more, each after its RXNE wait (40_i2c_master R110): ACK = 1 after each byte
but the last two, ACK = 0 and STOP = 1 after the second last. -/
def readEvents (b : BitVec 2) : List (Wait × Byte) → List Event
  | [] => []
  | [p] => p.1.events (.i2c b) .rxne 1 ++ [.rdR (.i2c b) .dr (.byte p.2)]
  | [p, q] =>
    p.1.events (.i2c b) .rxne 1 ++
      [.rdR (.i2c b) .dr (.byte p.2), .wrF (.i2c b) .ack (.bit 0), .wrF (.i2c b) .stop (.bit 1)] ++ readEvents b [q]
  | p :: q :: r :: rest =>
    p.1.events (.i2c b) .rxne 1 ++ [.rdR (.i2c b) .dr (.byte p.2), .wrF (.i2c b) .ack (.bit 1)] ++ readEvents b (q :: r :: rest)

/-- The events of the address phase with this ADDR wait and these answers to SR1 and SR2 (40_i2c_master R103). -/
def addrEvents (b : BitVec 2) (sel : Byte) (ad : Wait) (sr1 sr2 : Word) : List Event :=
  [.wrR (.i2c b) .dr (.byte sel)] ++ ad.events (.i2c b) .addr 1 ++ [.rdR (.i2c b) .sr1 (.word sr1), .rdR (.i2c b) .sr2 (.word sr2)]

/-- The twelve events of CONFIGURE (40_i2c_master R101). -/
def configureEvents (c : Config) (b : BitVec 2) : List Event :=
  [.wrF (.plat b) .i2cClkEn (.bit 1), .wrF (.plat b) .gpioClkEn (.bit 1), .wrF (.plat b) .pinMode (.num c.afVal),
   .wrF (.plat b) .pinOtype (.sym .od), .wrF (.plat b) .pinPull (.sym .up), .wrF (.plat b) .pinSpeed (.num c.speedVal),
   .wrF (.i2c b) .swrst (.bit 1), .wrF (.i2c b) .swrst (.bit 0), .wrF (.i2c b) .freq (.num c.freqVal),
   .wrF (.i2c b) .ccr (.num c.ccrVal), .wrF (.i2c b) .trise (.num c.triseVal), .wrF (.i2c b) .pe (.bit 1)]

/-- The events of RTCINIT, given those of its three polls (41_rtc_sequencer R135). -/
def rtcinitTrace (c : Config) (rdy i1 i0 : List Event) : List Event :=
  [.wrF .rcc .pwrClkEn (.bit 1), .wrF .pwr .bkpWrEn (.bit 1), .wrF .bdc .lseOn (.bit 1)] ++ rdy ++
  [.wrF .bdc .rtcSrc (.sym .lse), .wrF .bdc .rtcEn (.bit 1), .wrR .rtc .wpr (.byte 0xCA), .wrR .rtc .wpr (.byte 0x53),
   .wrF .rtc .init (.bit 1)] ++ i1 ++
  [.wrF .rtc .predivS (.num c.predivSVal), .wrF .rtc .predivA (.num c.predivAVal), .wrF .rtc .fmt (.sym .h24),
   .wrF .rtc .init (.bit 0)] ++ i0 ++
  [.wrR .rtc .wpr (.byte c.lockSentinel), .wrF .pwr .bkpWrEn (.bit 0)]

/-- The 17 events of RTCINIT when every poll is satisfied at its first read: event `k` is that of micro-step `k`. -/
def rtcinitEvents (c : Config) : List Event := rtcinitTrace c [.rdF .bdc .lseRdy 1] [.rdF .rtc .initf 1] [.rdF .rtc .initf 0]

/-- The events of RTCSET writing the time word `w`, given those of its two polls (41_rtc_sequencer R136). -/
def rtcsetTrace (c : Config) (w : Word) (i1 i0 : List Event) : List Event :=
  [.wrF .pwr .bkpWrEn (.bit 1), .wrR .rtc .wpr (.byte 0xCA), .wrR .rtc .wpr (.byte 0x53), .wrF .rtc .init (.bit 1)] ++ i1 ++
  [.wrR .rtc .tr (.word w), .wrR .rtc .date (.word c.datePlaceholder), .wrF .rtc .init (.bit 0)] ++ i0 ++
  [.wrR .rtc .wpr (.byte c.lockSentinel)]

/-- The 10 events of RTCSET when every poll is satisfied at its first read: event `k` is that of micro-step `k`. -/
def rtcsetEvents (c : Config) (w : Word) : List Event := rtcsetTrace c w [.rdF .rtc .initf 1] [.rdF .rtc .initf 0]

/-- `rtc_state` after a micro-step of RTCINIT or RTCSET, given what it was: the table of 10_state R33. -/
def rtcStateAfter (c : Cmd) (k : Nat) (was : RtcState) : RtcState :=
  if c = .rtcinit then
    if k = 0 then .clockEnabling
    else if k = 7 then .writeUnlocked
    else if k = 9 then .initMode
    else if k = 14 then .writeUnlocked
    else if k = 15 then .writeLocked
    else if k = 16 then .running
    else was
  else if c = .rtcset then
    if k = 2 then .writeUnlocked
    else if k = 4 then .initMode
    else if k = 8 then .writeUnlocked
    else if k = 9 then .running
    else was
  else was

/-- TREC with hours, minutes and seconds replaced. -/
def timeSet (t : TimeRec Byte) (x : Hms) : TimeRec Byte := { t with hour := x.hour, min := x.min, sec := x.sec }

/-- Hours, minutes and seconds marked as written. -/
def timeKnown (t : TimeRec Bool) : TimeRec Bool := { t with hour := true, min := true, sec := true }

/-! ### The polls (40_i2c_master R115, 41_rtc_sequencer R135 to R137) -/

/-- The poll at a micro-step, if it is one: T2, A1, W2, W5, Q1, Q7, G1, G6, G10, G15, I3, I9, I14, S4, S8, Y0. -/
def pollAt (i : Instr) (k : Nat) : Option (Dev × Flag × BitVec 1) :=
  match i with
  | .configure _ => none
  | .start b => if k = 2 then some (.i2c b, .sb, 1) else none
  | .sendaddr b _ => if k = 1 then some (.i2c b, .addr, 1) else none
  | .write b _ _ _ =>
    if k = 2 then some (.i2c b, .sb, 1)
    else if k = 4 then some (.i2c b, .addr, 1)
    else if k = 9 then some (.i2c b, .txe, 1)
    else if k = 12 then some (.i2c b, .btf, 1)
    else none
  | .wrdata b _ _ => if k = 2 then some (.i2c b, .txe, 1) else if k = 5 then some (.i2c b, .btf, 1) else none
  | .read b _ _ n =>
    if k = 1 then some (.i2c b, .addr, 1)
    else if n = 1 then (if k = 7 then some (.i2c b, .rxne, 1) else none)
    else if k = 6 ∨ k = 10 ∨ k = 15 then some (.i2c b, .rxne, 1)
    else none
  | .stop _ => none
  | .rtcinit =>
    if k = 3 then some (.bdc, .lseRdy, 1)
    else if k = 9 then some (.rtc, .initf, 1)
    else if k = 14 then some (.rtc, .initf, 0)
    else none
  | .rtcset => if k = 4 then some (.rtc, .initf, 1) else if k = 8 then some (.rtc, .initf, 0) else none
  | .rtcget => if k = 0 then some (.rtc, .rsf, 1) else none

/-- Without a limit, `i` is at a poll that none of the next answers satisfies: for so long it hangs (40_i2c_master R115). -/
def HangsAt (i : Instr) (k : Nat) (d : Dev) (f : Flag) (want : BitVec 1) (answers : List Word) (s : State) : Prop :=
  s.running = some (i, k) ∧ pollAt i k = some (d, f, want) ∧ s.cfg.pollLimit = none ∧ ∀ a ∈ answers, a.setWidth 1 ≠ want

/-! ### The invariant of the machine -/

/-- The length of a command's micro-step list (40_i2c_master R101 to R110, 41_rtc_sequencer R135 to R137). -/
def stepCount (c : Cmd) (cnt : Byte) : Nat :=
  match c with
  | .configure => 12
  | .start => 3
  | .sendaddr => 4
  | .write => 13
  | .wrdata => 6
  | .read => if cnt = 1 then 9 else 18
  | .stop => 1
  | .rtcinit => 17
  | .rtcset => 10
  | .rtcget => 3

/-- Where `rem` stands in the data phase (40_i2c_master R106): at W1 at most `cnt`, from W2 to W4 in 1..cnt. -/
def dataRemOk (cnt rem k : Nat) : Bool :=
  if k = 1 then decide (rem ≤ cnt) else if k = 2 ∨ k = 3 ∨ k = 4 then decide (1 ≤ rem ∧ rem ≤ cnt) else true

/-- Where `rem` stands in a READ of two or more bytes (40_i2c_master R110): at G5 at least 2, in the bulk loop at least 3, from
G10 to G14 it is 2, from G15 on it is 1. -/
def manyRemOk (cnt rem k : Nat) : Bool :=
  if k = 5 then decide (2 ≤ rem ∧ rem ≤ cnt)
  else if 6 ≤ k ∧ k ≤ 9 then decide (3 ≤ rem ∧ rem ≤ cnt)
  else if 10 ≤ k ∧ k ≤ 14 then decide (rem = 2)
  else if 15 ≤ k then decide (rem = 1)
  else true

/-- Where `rem` stands in a running command (10_state R23, 20_memory R67). -/
def remOk (c : Cmd) (cnt rem : Byte) (k : Nat) : Bool :=
  match c with
  | .write => if 7 ≤ k then dataRemOk cnt.toNat rem.toNat (k - 7) else true
  | .wrdata => dataRemOk cnt.toNat rem.toNat k
  | .read => if cnt = 1 then true else manyRemOk cnt.toNat rem.toNat k
  | _ => true

/-- The sequencer is idle, or at a micro-step of a legal command with a byte count in 1..255 and `rem` where it belongs, with
STATUS.ERR 0 (10_state R21 to R26) and fewer reads of the poll in progress than POLL_LIMIT (20_memory R56). -/
def seqOk (s : State) : Prop :=
  match s.seq with
  | .idle => True
  | .run c k =>
    k < stepCount c s.lat.cnt ∧ (instrOf c s.lat).wf s.cfg.nBus = true ∧ countIsZero (instrOf c s.lat) = false ∧
      remOk c s.lat.cnt s.rem k = true ∧ s.err = 0 ∧ (∀ l, s.cfg.pollLimit = some l → s.polls < l)

/-- The invariant: a legal configuration (00_scope R9), the sequencer in a legal position, no error code above 4 (10_state
R26), both stores canonical and in bounds (20_memory R50, R67), only events that the Register Interface has (R51), and `held`
exactly what the trace says (10_state R34). -/
structure Inv (s : State) : Prop where
  /-- The configuration obeys 00_scope R9. -/
  cfgOk : s.cfg.wf = true
  /-- The sequencer. -/
  seq : seqOk s
  /-- Codes 5 to 7 are never produced (10_state R26). -/
  err : s.err.toNat ≤ 4
  /-- BUF is canonical. -/
  buf : Memory.wf Config.bufSize s.buf
  /-- The Register Interface record is canonical. -/
  ri : Memory.wf 768 s.ri
  /-- Every event is an access the Register Interface has. -/
  events : ∀ e ∈ s.tr, e.wf s.cfg.nBus = true
  /-- `held[b]` follows the trace. -/
  held : ∀ b, busGet s.held b = heldByTrace b s.tr

/-! ### The protocol windows of the RTC (41_rtc_sequencer R142 to R144) -/

/-- What a trace says about the RTC's protections. -/
structure RtcWindow where
  /-- The last WPR write was KEY1. -/
  key1Last : Bool
  /-- The last two WPR writes were KEY1 then KEY2 (60_exceptions R191). -/
  unlocked : Bool
  /-- The last INIT write was 1. -/
  initAsked : Bool
  /-- INITF has been observed 1 since that write, and INIT has not been written 0 since. -/
  inInit : Bool
  /-- Every protected write so far lay inside both windows. -/
  ok : Bool
deriving DecidableEq, Repr

/-- A write that 41_rtc_sequencer R143 confines to the windows: PREDIV_S, PREDIV_A, FMT, TR, DATE. -/
def Event.isProtected : Event → Bool
  | .wrF _ f _ => f == .predivS || f == .predivA || f == .fmt
  | .wrR _ r _ => r == .tr || r == .date
  | .rdF _ _ _ => false
  | .rdR _ _ _ => false

/-- One event. -/
def RtcWindow.after (w : RtcWindow) (e : Event) : RtcWindow :=
  match e with
  | .wrR d r v =>
    if d = .rtc ∧ r = .wpr then
      { w with key1Last := decide (v = .byte Config.key1), unlocked := w.key1Last && decide (v = .byte Config.key2) }
    else { w with ok := w.ok && (!(Event.wrR d r v).isProtected || (w.unlocked && w.inInit)) }
  | .wrF d f v =>
    if d = .rtc ∧ f = .init then
      { w with initAsked := decide (v = .bit 1), inInit := w.inInit && decide (v ≠ .bit 0) }
    else { w with ok := w.ok && (!(Event.wrF d f v).isProtected || (w.unlocked && w.inInit)) }
  | .rdF d f v =>
    if d = .rtc ∧ f = .initf then { w with inInit := w.inInit || (w.initAsked && v == 1) } else w
  | .rdR _ _ _ => w

/-- After a whole trace, from a lock of which nothing is known. -/
def rtcWindow (tr : List Event) : RtcWindow :=
  tr.foldl RtcWindow.after { key1Last := false, unlocked := false, initAsked := false, inInit := false, ok := true }

/-- Where a running RTC command stands in its windows. -/
def windowAt (c : Cmd) (k : Nat) (w : RtcWindow) : Bool :=
  match c with
  | .rtcinit =>
    (!decide (k = 7) || w.key1Last) && (!decide (8 ≤ k ∧ k ≤ 15) || w.unlocked) &&
      (!decide (9 ≤ k ∧ k ≤ 13) || w.initAsked) && (!decide (10 ≤ k ∧ k ≤ 13) || w.inInit)
  | .rtcset =>
    (!decide (k = 2) || w.key1Last) && (!decide (3 ≤ k ∧ k ≤ 9) || w.unlocked) &&
      (!decide (4 ≤ k ∧ k ≤ 7) || w.initAsked) && (!decide (5 ≤ k ∧ k ≤ 7) || w.inInit)
  | _ => true

/-- Every protected write of the trace lay inside the windows, and the running command stands where its list says. -/
def WindowInv (s : State) : Prop :=
  (rtcWindow s.tr).ok = true ∧
    match s.seq with
    | .idle => True
    | .run c k => windowAt c k (rtcWindow s.tr) = true

end Sys2Proof.Machine
end

