-- ==== Sys2Proof/Certificates/Slice0/Obligations.lean ====
section
/-! DEFINITION. The statements for the provers. Each docstring names the rule of spec/ it formalises. Where a statement says
"a micro-step", `exec i s` is one micro-step of the running instruction `i`; while idle it is acceptance. -/

open Sys2Proof Sys2Proof.Machine

/-! ### Encoding -/

/-- Every command with a bus handle below N_BUS, every operand at every value, decodes from its word (30_encoding R71, R72, R74). -/
def Obligations.DecodeOfEncodeIsTheCommand : Prop :=
  ∀ (nBus : Nat) (i : Instr), i.wf nBus = true → decode nBus (encode i) = .ok i

/-- A word that decodes is the word of the command it decodes to, whose bus handle is below N_BUS (30_encoding R71, R75). That
the encoding keeps all 8 bits of `arg` in WRITE and READ, of which 30_encoding R73 ignores bit 0, is the model's choice (log 17): two
words that differ in that bit alone decode to commands with different operands that transmit the same select byte. -/
def Obligations.DecodedWordIsTheEncoding : Prop :=
  ∀ (nBus : Nat) (w : Word) (i : Instr), decode nBus w = .ok i → encode i = w ∧ i.wf nBus = true

/-- The worked encodings of 30_encoding R83, both ways, and its five illegal words. -/
def Obligations.WorkedEncodingsOfTheSpec : Prop :=
  (∀ p ∈ ([(.configure 0, 0x10000000), (.start 0, 0x20000000), (.sendaddr 0 0xA0, 0x300000A0),
      (.write 0 0xA0 0 2, 0x400200A0), (.wrdata 0 2 2, 0x50020200), (.read 0 0xA0 2 3, 0x600302A0), (.stop 0, 0x70000000),
      (.start 1, 0x24000000), (.rtcinit, 0x80000000), (.rtcset, 0x90000000), (.rtcget, 0xA0000000)] : List (Instr × Word)),
    encode p.1 = p.2 ∧ decode 2 p.2 = .ok p.1) ∧
  decode 4 0x00000000 = .error .reservedOpcode ∧ decode 4 0x21000000 = .error .zNotZero ∧
  decode 4 0x20000001 = .error .unusedFieldNotZero ∧ decode 4 0x84000000 = .error .unusedFieldNotZero ∧
  decode 4 0xB0000000 = .error .reservedOpcode

/-- A word is rejected exactly when 30_encoding R75 calls it illegal; written to CMD while the block is idle, it sets
STATUS.ERR to 4 whatever it was and changes nothing else (60_exceptions R182). -/
def Obligations.IllegalWordOnlySetsErr : Prop :=
  (∀ nBus w, IllegalWord nBus w ↔ ∃ e, decode nBus w = .error e) ∧
  ∀ (s : State) (w : Word) (timing : HostTiming) (rest : List HostItem),
    s.seq = .idle → s.host = { act := .cmd w, timing := timing, cont := false } :: rest → IllegalWord s.cfg.nBus w →
    step s = .next { s with err := 4, host := rest }

/-! ### Steps -/

/-- A CMD write of a word that decodes to `i`, while idle, is `exec i`; while `i` runs and the host waits for BUSY = 0 or has
nothing to do, a step is `exec i`; while the host has `n + 1` micro-steps to let pass, it is `exec i` and the host has `n` left;
idle with nothing to do, a step changes nothing (10_state R21, R30; 30_encoding R82). That a step is one micro-step, the host's
list and its timing are the model's choices (log 1, 18). -/
def Obligations.StepRunsTheDecodedCommand : Prop :=
  (∀ (s : State) (w : Word) (i : Instr) (timing : HostTiming) (rest : List HostItem),
    s.seq = .idle → s.host = { act := .cmd w, timing := timing, cont := false } :: rest →
    decode s.cfg.nBus w = .ok i → step s = exec i { s with host := rest }) ∧
  (∀ (s : State) (i : Instr) (k : Nat),
    s.running = some (i, k) → (∀ it rest, s.host = it :: rest → it.timing = .whenIdle) → step s = exec i s) ∧
  (∀ (s : State) (i : Instr) (k n : Nat) (a : HostAction) (cont : Bool) (rest : List HostItem),
    s.running = some (i, k) → s.host = { act := a, timing := .after (n + 1), cont := cont } :: rest →
    step s = exec i { s with host := { act := a, timing := .after n, cont := cont } :: rest }) ∧
  (∀ s : State, s.seq = .idle → s.host = [] → step s = .next s)

/-! ### Reset -/

/-- The block after reset (10_state R47): the values the rule gives. -/
def Obligations.ResetLeavesTheRulesValues : Prop :=
  State.reset.seq = .idle ∧ State.reset.status = 0 ∧ State.reset.err = 0 ∧
  (∀ b, busGet State.reset.configured b = false ∧ busGet State.reset.held b = false) ∧
  State.reset.rtcState = .uninitialized ∧ State.reset.tr = []

/-- A reset by the host ends any command, from any state, at any micro-step: the block is as R200 says, the trace is empty, and
no Register Interface value changes (70_reset R200, R201). It is the way out of a command that hangs at a poll, however many reads
that poll has made (R200; 60_exceptions R190). That the host resets the block is the model's choice (log 32), when it does so the
model's form (log 18), and that the environment, the configuration and what the host has read stay its reading of R201 (log 23). -/
def Obligations.HostResetFromAnyState : Prop :=
  (∀ (s : State) (timing : HostTiming) (rest : List HostItem), (s.seq = .idle ∨ timing = .after 0) →
    s.host = { act := .reset, timing := timing, cont := false } :: rest →
    ∃ t, step s = .next t ∧ AtReset t ∧ t.ri = s.ri ∧ t.env = s.env ∧ t.cfg = s.cfg ∧ t.seen = s.seen ∧ t.host = rest) ∧
  (∀ (s : State) (i : Instr) (k : Nat) (d : Dev) (f : Flag) (want : BitVec 1) (answers more : List Word) (rest : List HostItem),
    HangsAt i k d f want answers s → s.env = .oracle (answers ++ more) →
    s.host = { act := .reset, timing := .after answers.length, cont := false } :: rest →
    ∃ t, runStep (answers.length + 1) s = .next t ∧ AtReset t ∧
      t.ri = record s.ri (List.replicate answers.length (.rdF d f (~~~want))) ∧ t.env = .oracle more ∧ t.cfg = s.cfg ∧
      t.seen = s.seen ∧ t.host = rest)

/-! ### Invariants -/

/-- The invariant holds after reset. -/
def Obligations.InvariantHoldsAtReset : Prop := Inv State.reset

/-- Every step keeps the invariant: legal positions, `rem` in range, STATUS.ERR at most 4, canonical stores, only events the
Register Interface has, and `held` equal to what the trace says. -/
def Obligations.EveryStepKeepsTheInvariant : Prop := ∀ s t : State, Inv s → step s = .next t → Inv t

/-- From a state that meets the invariant no step faults: the buffer index never leaves the buffer and no list runs out
(20_memory R67, 40_i2c_master R113, 10_state R22). -/
def Obligations.NoStepFaultsUnderTheInvariant : Prop := ∀ (s : State) (f : Fault), Inv s → step s ≠ .fault f

/-- No step changes the configuration (00_scope R7). That it is a field of State is the model's form (log 2). -/
def Obligations.ConfigurationNeverChanges : Prop := ∀ s t : State, step s = .next t → t.cfg = s.cfg

/-- Each micro-step is at most one Register Interface event, appended to the trace and recorded under its name alone
(00_scope R6, 20_memory R63). -/
def Obligations.MicroStepIsAtMostOneEvent : Prop :=
  ∀ (i : Instr) (s t : State), exec i s = .next t →
    ∃ es : List Event, es.length ≤ 1 ∧ t.tr = s.tr ++ es ∧ t.ri = record s.ri es ∧
      ∀ n : RiName, (∀ e ∈ es, e.name ≠ n) → Memory.get? t.ri n.code = Memory.get? s.ri n.code

/-- In the reference behaviour no command raises anything: STATUS.ERR is 0 after acceptance and stays as it is while the
command runs (60_exceptions R180, R184). -/
def Obligations.ReferenceBehaviourRaisesNothing : Prop :=
  ∀ (i : Instr) (s t : State), s.cfg.pollLimit = none → s.cfg.checked = false → i.wf s.cfg.nBus = true →
    exec i s = .next t → (s.seq = .idle → t.err = 0) ∧ (s.seq ≠ .idle → t.err = s.err)

/-- STATUS: BUSY in bit 0, 1 exactly when not idle; ERR in bits 3:1; bits 31:4 read as 0 (10_state R26). -/
def Obligations.StatusWordLayout : Prop :=
  ∀ s : State, (s.status.getLsbD 0 = true ↔ s.seq ≠ .idle) ∧ s.status.extractLsb' 1 3 = s.err ∧
    s.status.extractLsb' 4 28 = 0

/-! ### Polls -/

/-- Reference behaviour: while the flag read differs from the wanted value, the poll reads again for ever; nothing but the trace
changes (20_memory R56, 40_i2c_master R115). It holds of every poll of every command. -/
def Obligations.UnsatisfiedPollKeepsWaiting : Prop :=
  ∀ (i : Instr) (k : Nat) (d : Dev) (f : Flag) (want : BitVec 1) (s : State), s.cfg.pollLimit = none →
    pollAt i k = some (d, f, want) → s.running = some (i, k) → s.flagBit f ≠ want →
    ∃ t, exec i s = .next t ∧ StepTo s t [.rdF d f (s.flagBit f)] s.seq

/-- POLL_LIMIT = L: a read that is not the wanted value counts; the L-th raises BusTimeout at once, with the events, BUF,
`held`, `rtc_state` and `rem` as they had become (60_exceptions R184, R185). -/
def Obligations.PollTimesOutAtTheLimit : Prop :=
  ∀ (i : Instr) (k : Nat) (d : Dev) (f : Flag) (want : BitVec 1) (s : State) (l : Nat), s.cfg.pollLimit = some l →
    pollAt i k = some (d, f, want) → s.running = some (i, k) → s.flagBit f ≠ want →
    (s.polls + 1 = l → ∃ t, exec i s = .next t ∧
      StepTo { s with polls := s.polls + 1, err := 1 } t [.rdF d f (s.flagBit f)] .idle) ∧
    (s.polls + 1 ≠ l → ∃ t, exec i s = .next t ∧
      StepTo { s with polls := s.polls + 1 } t [.rdF d f (s.flagBit f)] s.seq)

/-- With POLL_LIMIT finite every command ends, whatever the environment answers, by `done` with STATUS.ERR 0 or by BusTimeout
with STATUS.ERR 1 (40_i2c_master R114, 60_exceptions R185); only an RTCSET whose time fields turn out above 99 is refused instead
(41_rtc_sequencer R131). -/
def Obligations.FinitePollLimitEndsEveryCommand : Prop :=
  ∀ (i : Instr) (k l : Nat) (s : State), Inv s → s.cfg.pollLimit = some l → s.running = some (i, k) →
    ∃ n, (∃ t, runExec i n s = .next t ∧ t.seq = .idle ∧ (t.err = 0 ∨ t.err = 1)) ∨
      (i = .rtcset ∧ runExec i n s = .refused .timeFieldOver99)

/-! ### Acceptance -/

/-- A legal command, presented while idle, that no check stops and the spec does not refuse, is accepted: STATUS.ERR 0,
operands latched, RUN(cmd, 0), no event (30_encoding R82). For every command. `accepted` also sets `polls` to 0, which 20_memory R56
does at the head of each poll: the model's form (log 12). -/
def Obligations.LegalCommandIsAccepted : Prop :=
  ∀ (i : Instr) (s : State), s.seq = .idle → Acceptable i s →
    ∃ t, exec i s = .next t ∧ StepTo (s.accepted i) t [] (.run (cmdOf i) 0) ∧ t.lat = latOf i ∧ t.err = 0 ∧
      t.running = some (i, 0)

/-- CHECKED: the count test, then the configured test, each raised before any event, nothing but STATUS and `lat` changed
(60_exceptions R183, R184, R186). -/
def Obligations.CheckedAcceptanceErrors : Prop :=
  ∀ (i : Instr) (s : State), s.seq = .idle → i.wf s.cfg.nBus = true → s.cfg.checked = true →
    (countIsZero i = true → exec i s = .next { s with err := 2, lat := latOf i }) ∧
    (∀ b, countIsZero i = false → needsConfigured i = some b → busGet s.configured b = false →
      exec i s = .next { s with err := 3, lat := latOf i })

/-- What the spec gives no meaning at acceptance: a byte count of 0 when CHECKED is false (30_encoding R76), CONFIGURE on a held
bus (40_i2c_master R101), RTCSET with a time field above 99 (41_rtc_sequencer R131). That the last refusal comes at acceptance, for
a field written since reset, is the model's choice (log 15). -/
def Obligations.RefusedAtAcceptance : Prop :=
  (∀ (i : Instr) (s : State), s.seq = .idle → i.wf s.cfg.nBus = true → s.cfg.checked = false → countIsZero i = true →
    exec i s = .refused .byteCountZero) ∧
  (∀ (b : BitVec 2) (s : State), s.seq = .idle → b.toNat < s.cfg.nBus → busGet s.held b = true →
    exec (.configure b) s = .refused .configureWhileHeld) ∧
  (∀ s : State, s.seq = .idle →
    (trecOver99 .hour s = true ∨ trecOver99 .min s = true ∨ trecOver99 .sec s = true) →
    exec .rtcset s = .refused .timeFieldOver99)

/-! ### The host's ports -/

/-- While the block is busy, a CMD write, a BUF or TREC access, or another writer of the Register Interface has no meaning;
STATUS may be read at any time (60_exceptions R190, R194), as of a command that hangs at a poll, however many reads that poll has
made. That a host read is recorded in `seen` is the model's form (log 19), and so is when the host acts (log 18). -/
def Obligations.HostAccessWhileBusy : Prop :=
  (∀ (s : State) (a : HostAction) (rest : List HostItem), s.seq ≠ .idle →
    s.host = { act := a, timing := .after 0, cont := false } :: rest →
    ((∃ w, a = .cmd w) ∨ (∃ i v, a = .bufWrite i v) ∨ (∃ i, a = .bufRead i) ∨ (∃ f v, a = .trecWrite f v) ∨
        (∃ f, a = .trecRead f) → step s = .refused .hostWhileBusy) ∧
    (∀ d f v, a = .foreignWrite d f v → step s = .refused .foreignWriter) ∧
    (a = .statusRead →
      step s = .next { s with host := rest, seen := s.seen ++ [{ port := .status, val := s.status }] })) ∧
  (∀ (s : State) (i : Instr) (k : Nat) (d : Dev) (f : Flag) (want : BitVec 1) (answers more : List Word) (rest : List HostItem),
    HangsAt i k d f want answers s → s.env = .oracle (answers ++ more) →
    s.host = { act := .statusRead, timing := .after answers.length, cont := false } :: rest →
    ∃ t, runStep (answers.length + 1) s = .next t ∧ t.env = .oracle more ∧ s.status.getLsbD 0 = true ∧
      StepTo { s with host := rest, seen := s.seen ++ [{ port := .status, val := s.status }] } t
        (List.replicate answers.length (.rdF d f (~~~want))) s.seq)

/-- While idle, the host writes any BUF cell and any TREC register, and reads back what was written last; the other cells and
registers keep their values (10_state R27, R28). That what the host reads is recorded in `seen` is the model's form (log 19). -/
def Obligations.HostReadsBackWhatWasWritten : Prop :=
  ∀ (s : State) (timing : HostTiming) (rest : List HostItem), s.seq = .idle →
    (∀ (i : BitVec 9) (v : Byte), s.host = { act := .bufWrite i v, timing := timing, cont := false } :: rest →
      ∃ t, step s = .next t ∧ Memory.get? t.buf i.toNat = some v ∧
        (∀ a, a ≠ i.toNat → Memory.get? t.buf a = Memory.get? s.buf a) ∧
        t = { s with host := rest, buf := t.buf }) ∧
    (∀ (f : TField) (v : Byte), s.host = { act := .trecWrite f v, timing := timing, cont := false } :: rest →
      ∃ t, step s = .next t ∧ trecGet t.trec f = v ∧ trecGet t.trecKnown f = true ∧
        (∀ g, g ≠ f → trecGet t.trec g = trecGet s.trec g ∧ trecGet t.trecKnown g = trecGet s.trecKnown g) ∧
        t = { s with host := rest, trec := t.trec, trecKnown := t.trecKnown }) ∧
    (∀ (i : BitVec 9) (v : Byte), s.host = { act := .bufRead i, timing := timing, cont := false } :: rest →
      Memory.get? s.buf i.toNat = some v →
      step s = .next { s with host := rest, seen := s.seen ++ [{ port := .buf i, val := v.setWidth 32 }] }) ∧
    (∀ f : TField, s.host = { act := .trecRead f, timing := timing, cont := false } :: rest → trecGet s.trecKnown f = true →
      step s = .next { s with
        host := rest, seen := s.seen ++ [{ port := .trec f, val := (trecGet s.trec f).setWidth 32 }] })

/-! ### Micro-steps: what each one emits, changes and leaves -/

/-- C0 to C11 (40_i2c_master R101). -/
def Obligations.ConfigureMicroSteps : Prop :=
  ∀ (b : BitVec 2) (k : Nat) (e : Event) (s : State), s.running = some (.configure b, k) →
    (configureEvents s.cfg b)[k]? = some e →
    (k < 11 → ∃ t, exec (.configure b) s = .next t ∧ StepTo s t [e] (.run .configure (k + 1))) ∧
    (k = 11 → ∃ t, exec (.configure b) s = .next t ∧
      StepTo { s with configured := busSet s.configured b true } t [e] .idle)

/-- T0 to T2 (40_i2c_master R102); T2 sets `held[b]`, ends the command and with it the poll, whose count goes to 0 (log 12). The
START write is a repeated start, Sr, exactly when `held[b]` is 1, else S (10_state R35, 40_i2c_master R112). -/
def Obligations.StartMicroSteps : Prop :=
  ∀ (b : BitVec 2) (s : State),
    (s.running = some (.start b, 0) → ∃ t, exec (.start b) s = .next t ∧
      StepTo s t [.wrF (.i2c b) .ack (.bit 1)] (.run .start 1)) ∧
    (s.running = some (.start b, 1) → ∃ t, exec (.start b) s = .next t ∧
      StepTo s t [.wrF (.i2c b) .start (.bit 1)] (.run .start 2) ∧
      (Inv s → txProjection b t.tr = txProjection b s.tr ++ [if busGet s.held b then .sr else .s])) ∧
    (s.running = some (.start b, 2) → s.flagBit .sb = 1 → ∃ t, exec (.start b) s = .next t ∧
      StepTo { s with held := busSet s.held b true, polls := 0 } t [.rdF (.i2c b) .sb 1] .idle)

/-- A0 to A3 (40_i2c_master R103): the select byte as given, ADDR, SR1 then SR2. The end of the poll sets its count to 0
(log 12). -/
def Obligations.SendaddrMicroSteps : Prop :=
  ∀ (b : BitVec 2) (sel : Byte) (s : State),
    (s.running = some (.sendaddr b sel, 0) → ∃ t, exec (.sendaddr b sel) s = .next t ∧
      StepTo s t [.wrR (.i2c b) .dr (.byte sel)] (.run .sendaddr 1)) ∧
    (s.running = some (.sendaddr b sel, 1) → s.flagBit .addr = 1 → ∃ t, exec (.sendaddr b sel) s = .next t ∧
      StepTo { s with polls := 0 } t [.rdF (.i2c b) .addr 1] (.run .sendaddr 2)) ∧
    (s.running = some (.sendaddr b sel, 2) → ∃ t, exec (.sendaddr b sel) s = .next t ∧
      StepTo s t [.rdR (.i2c b) .sr1 (.word (s.regWord .sr1))] (.run .sendaddr 3)) ∧
    (s.running = some (.sendaddr b sel, 3) → ∃ t, exec (.sendaddr b sel) s = .next t ∧
      StepTo s t [.rdR (.i2c b) .sr2 (.word (s.regWord .sr2))] .idle)

/-- P0 (40_i2c_master R104): one event, `held[b]` cleared, the command done, whatever `held[b]` was. -/
def Obligations.StopMicroStep : Prop :=
  ∀ (b : BitVec 2) (s : State), s.running = some (.stop b, 0) → ∃ t, exec (.stop b) s = .next t ∧
    StepTo { s with held := busSet s.held b false } t [.wrF (.i2c b) .stop (.bit 1)] .idle

/-- The micro-steps of WRITE: T0 to T2, A0 to A3 with bit 0 of the select byte forced to 0, W0 to W5 (40_i2c_master R105, R106;
30_encoding R73). A BUF cell never written is sent as a free value (log 9). The end of a poll
sets its count to 0 (log 12). The START write is a repeated start, Sr, exactly when `held[b]` is 1 (10_state R35,
40_i2c_master R112). -/
def Obligations.WriteMicroSteps : Prop :=
  ∀ (b : BitVec 2) (addr off n : Byte) (k : Nat) (s : State), s.running = some (.write b addr off n, k) →
    (k = 0 → ∃ t, exec (.write b addr off n) s = .next t ∧
      StepTo s t [.wrF (.i2c b) .ack (.bit 1)] (.run .write 1)) ∧
    (k = 1 → ∃ t, exec (.write b addr off n) s = .next t ∧
      StepTo s t [.wrF (.i2c b) .start (.bit 1)] (.run .write 2) ∧
      (Inv s → txProjection b t.tr = txProjection b s.tr ++ [if busGet s.held b then .sr else .s])) ∧
    (k = 2 → s.flagBit .sb = 1 → ∃ t, exec (.write b addr off n) s = .next t ∧
      StepTo { s with held := busSet s.held b true, polls := 0 } t [.rdF (.i2c b) .sb 1] (.run .write 3)) ∧
    (k = 3 → ∃ t, exec (.write b addr off n) s = .next t ∧
      StepTo s t [.wrR (.i2c b) .dr (.byte (addr &&& 0xFE))] (.run .write 4)) ∧
    (k = 4 → s.flagBit .addr = 1 → ∃ t, exec (.write b addr off n) s = .next t ∧
      StepTo { s with polls := 0 } t [.rdF (.i2c b) .addr 1] (.run .write 5)) ∧
    (k = 5 → ∃ t, exec (.write b addr off n) s = .next t ∧
      StepTo s t [.rdR (.i2c b) .sr1 (.word (s.regWord .sr1))] (.run .write 6)) ∧
    (k = 6 → ∃ t, exec (.write b addr off n) s = .next t ∧
      StepTo s t [.rdR (.i2c b) .sr2 (.word (s.regWord .sr2))] (.run .write 7)) ∧
    (k = 7 → ∃ t, exec (.write b addr off n) s = .next t ∧ StepTo { s with rem := n } t [] (.run .write 8)) ∧
    (k = 8 → ∃ t, exec (.write b addr off n) s = .next t ∧
      StepTo s t [] (.run .write (if s.rem = 0 then 12 else 9))) ∧
    (k = 9 → s.flagBit .txe = 1 → ∃ t, exec (.write b addr off n) s = .next t ∧
      StepTo { s with polls := 0 } t [.rdF (.i2c b) .txe 1] (.run .write 10)) ∧
    (k = 10 → 1 ≤ s.rem.toNat → s.rem.toNat ≤ n.toNat → ∃ (v : Byte) (t : State), exec (.write b addr off n) s = .next t ∧
      StepTo s t [.wrR (.i2c b) .dr (.byte v)] (.run .write 11) ∧
      ∀ x, Memory.get? s.buf (off.toNat + n.toNat - s.rem.toNat) = some x → v = x) ∧
    (k = 11 → s.rem ≠ 0 → ∃ t, exec (.write b addr off n) s = .next t ∧
      StepTo { s with rem := s.rem - 1 } t [] (.run .write 8)) ∧
    (k = 12 → s.flagBit .btf = 1 → ∃ t, exec (.write b addr off n) s = .next t ∧
      StepTo { s with polls := 0 } t [.rdF (.i2c b) .btf 1] .idle)

/-- W0 to W5 as WRDATA (40_i2c_master R106, R107): wait, write, decrement for each byte, one BTF wait at the end.
The end of a poll sets its count to 0 (log 12). -/
def Obligations.WrdataMicroSteps : Prop :=
  ∀ (b : BitVec 2) (off n : Byte) (k : Nat) (s : State), s.running = some (.wrdata b off n, k) →
    (k = 0 → ∃ t, exec (.wrdata b off n) s = .next t ∧ StepTo { s with rem := n } t [] (.run .wrdata 1)) ∧
    (k = 1 → ∃ t, exec (.wrdata b off n) s = .next t ∧
      StepTo s t [] (.run .wrdata (if s.rem = 0 then 5 else 2))) ∧
    (k = 2 → s.flagBit .txe = 1 → ∃ t, exec (.wrdata b off n) s = .next t ∧
      StepTo { s with polls := 0 } t [.rdF (.i2c b) .txe 1] (.run .wrdata 3)) ∧
    (k = 3 → 1 ≤ s.rem.toNat → s.rem.toNat ≤ n.toNat → ∃ (v : Byte) (t : State), exec (.wrdata b off n) s = .next t ∧
      StepTo s t [.wrR (.i2c b) .dr (.byte v)] (.run .wrdata 4) ∧
      ∀ x, Memory.get? s.buf (off.toNat + n.toNat - s.rem.toNat) = some x → v = x) ∧
    (k = 4 → s.rem ≠ 0 → ∃ t, exec (.wrdata b off n) s = .next t ∧
      StepTo { s with rem := s.rem - 1 } t [] (.run .wrdata 1)) ∧
    (k = 5 → s.flagBit .btf = 1 → ∃ t, exec (.wrdata b off n) s = .next t ∧
      StepTo { s with polls := 0 } t [.rdF (.i2c b) .btf 1] .idle)

/-- Q0 to Q8 (40_i2c_master R109): ACK off and POS on before SR1, STOP before the one RXNE wait, the byte to BUF[off].
The end of a poll sets its count to 0 (log 12). -/
def Obligations.ReadOneByteMicroSteps : Prop :=
  ∀ (b : BitVec 2) (addr off : Byte) (k : Nat) (s : State), s.running = some (.read b addr off 1, k) →
    (k = 0 → ∃ t, exec (.read b addr off 1) s = .next t ∧
      StepTo s t [.wrR (.i2c b) .dr (.byte (addr ||| 0x01))] (.run .read 1)) ∧
    (k = 1 → s.flagBit .addr = 1 → ∃ t, exec (.read b addr off 1) s = .next t ∧
      StepTo { s with polls := 0 } t [.rdF (.i2c b) .addr 1] (.run .read 2)) ∧
    (k = 2 → ∃ t, exec (.read b addr off 1) s = .next t ∧
      StepTo s t [.wrF (.i2c b) .ack (.bit 0)] (.run .read 3)) ∧
    (k = 3 → ∃ t, exec (.read b addr off 1) s = .next t ∧
      StepTo s t [.wrF (.i2c b) .pos (.bit 1)] (.run .read 4)) ∧
    (k = 4 → ∃ t, exec (.read b addr off 1) s = .next t ∧
      StepTo s t [.rdR (.i2c b) .sr1 (.word (s.regWord .sr1))] (.run .read 5)) ∧
    (k = 5 → ∃ t, exec (.read b addr off 1) s = .next t ∧
      StepTo s t [.rdR (.i2c b) .sr2 (.word (s.regWord .sr2))] (.run .read 6)) ∧
    (k = 6 → ∃ t, exec (.read b addr off 1) s = .next t ∧
      StepTo { s with held := busSet s.held b false } t [.wrF (.i2c b) .stop (.bit 1)] (.run .read 7)) ∧
    (k = 7 → s.flagBit .rxne = 1 → ∃ t, exec (.read b addr off 1) s = .next t ∧
      StepTo { s with polls := 0 } t [.rdF (.i2c b) .rxne 1] (.run .read 8)) ∧
    (k = 8 → ∃ t, exec (.read b addr off 1) s = .next t ∧
      StepTo { s with buf := Memory.set s.buf off.toNat s.drByte, rem := 0 } t
        [.rdR (.i2c b) .dr (.byte s.drByte)] .idle)

/-- G4 to G17 (40_i2c_master R110), and G0 to G3, or none of them when RD_ADDR_ALL is false (R111). The byte goes to
`BUF[off + n - rem]` (20_memory R67). The end of a poll sets its count to 0 (log 12). -/
def Obligations.ReadManyBytesMicroSteps : Prop :=
  ∀ (b : BitVec 2) (addr off n : Byte) (k : Nat) (s : State), n ≠ 1 → s.running = some (.read b addr off n, k) →
    (k = 0 → s.cfg.rdAddrAll = true → ∃ t, exec (.read b addr off n) s = .next t ∧
      StepTo s t [.wrR (.i2c b) .dr (.byte (addr ||| 0x01))] (.run .read 1)) ∧
    (k = 1 → s.flagBit .addr = 1 → ∃ t, exec (.read b addr off n) s = .next t ∧
      StepTo { s with polls := 0 } t [.rdF (.i2c b) .addr 1] (.run .read 2)) ∧
    (k = 2 → ∃ t, exec (.read b addr off n) s = .next t ∧
      StepTo s t [.rdR (.i2c b) .sr1 (.word (s.regWord .sr1))] (.run .read 3)) ∧
    (k = 3 → ∃ t, exec (.read b addr off n) s = .next t ∧
      StepTo s t [.rdR (.i2c b) .sr2 (.word (s.regWord .sr2))] (.run .read 4)) ∧
    ((k = 4 ∨ (k = 0 ∧ s.cfg.rdAddrAll = false)) → ∃ t, exec (.read b addr off n) s = .next t ∧
      StepTo { s with rem := n } t [] (.run .read 5)) ∧
    (k = 5 → ∃ t, exec (.read b addr off n) s = .next t ∧
      StepTo s t [] (.run .read (if s.rem.toNat ≤ 2 then 10 else 6))) ∧
    ((k = 6 ∨ k = 10 ∨ k = 15) → s.flagBit .rxne = 1 → ∃ t, exec (.read b addr off n) s = .next t ∧
      StepTo { s with polls := 0 } t [.rdF (.i2c b) .rxne 1] (.run .read (k + 1))) ∧
    ((k = 7 ∨ k = 11 ∨ k = 16) → 1 ≤ s.rem.toNat → s.rem.toNat ≤ n.toNat →
      ∃ t, exec (.read b addr off n) s = .next t ∧
      StepTo { s with buf := Memory.set s.buf (off.toNat + n.toNat - s.rem.toNat) s.drByte } t
        [.rdR (.i2c b) .dr (.byte s.drByte)] (.run .read (k + 1))) ∧
    (k = 8 → ∃ t, exec (.read b addr off n) s = .next t ∧
      StepTo s t [.wrF (.i2c b) .ack (.bit 1)] (.run .read 9)) ∧
    (k = 9 → s.rem ≠ 0 → ∃ t, exec (.read b addr off n) s = .next t ∧
      StepTo { s with rem := s.rem - 1 } t [] (.run .read 5)) ∧
    (k = 12 → ∃ t, exec (.read b addr off n) s = .next t ∧
      StepTo s t [.wrF (.i2c b) .ack (.bit 0)] (.run .read 13)) ∧
    (k = 13 → ∃ t, exec (.read b addr off n) s = .next t ∧
      StepTo { s with held := busSet s.held b false } t [.wrF (.i2c b) .stop (.bit 1)] (.run .read 14)) ∧
    (k = 14 → s.rem ≠ 0 → ∃ t, exec (.read b addr off n) s = .next t ∧
      StepTo { s with rem := s.rem - 1 } t [] (.run .read 15)) ∧
    (k = 17 → s.rem ≠ 0 → ∃ t, exec (.read b addr off n) s = .next t ∧
      StepTo { s with rem := s.rem - 1 } t [] .idle)

/-- I0 to I16 (41_rtc_sequencer R135), with `rtc_state` by the table of 10_state R33; a poll when its flag has the wanted value,
whose end sets its count to 0 (log 12). -/
def Obligations.RtcinitMicroSteps : Prop :=
  ∀ (k : Nat) (e : Event) (s : State), s.running = some (.rtcinit, k) → (rtcinitEvents s.cfg)[k]? = some e →
    (∀ d f want, pollAt .rtcinit k = some (d, f, want) → s.flagBit f = want) →
    ∃ t, exec .rtcinit s = .next t ∧
      StepTo { s with rtcState := rtcStateAfter .rtcinit k s.rtcState, polls := if (pollAt .rtcinit k).isSome then 0 else s.polls } t [e]
        (if k = 16 then .idle else .run .rtcinit (k + 1))

/-- S0 to S9 (41_rtc_sequencer R136), with `rtc_state` by the table of 10_state R33. S5 writes the packed time once, whole, if no
sampled field is above 99, and has no meaning otherwise (R131, R133). That WriteLocked is passed within S9 is the model's form (log 14), and so
is the end of a poll setting its count to 0 (log 12). -/
def Obligations.RtcsetMicroSteps : Prop :=
  ∀ (k : Nat) (s : State), s.running = some (.rtcset, k) →
    (∀ e, k ≠ 5 → (rtcsetEvents s.cfg 0)[k]? = some e →
      (∀ d f want, pollAt .rtcset k = some (d, f, want) → s.flagBit f = want) →
      ∃ t, exec .rtcset s = .next t ∧
        StepTo { s with rtcState := rtcStateAfter .rtcset k s.rtcState, polls := if (pollAt .rtcset k).isSome then 0 else s.polls } t [e]
          (if k = 9 then .idle else .run .rtcset (k + 1))) ∧
    (k = 5 → ∀ w, packTr s.cfg.trLayout s.sampleHour.1 s.sampleMin.1 s.sampleSec.1 = some w →
      ∃ t, exec .rtcset s = .next t ∧ StepTo s t [.wrR .rtc .tr (.word w)] (.run .rtcset 6)) ∧
    (k = 5 → (99 < s.sampleHour.1.toNat ∨ 99 < s.sampleMin.1.toNat ∨ 99 < s.sampleSec.1.toNat) →
      exec .rtcset s = .refused .timeFieldOver99)

/-- Y0 to Y2 (41_rtc_sequencer R137): RSF, then TR read once and all three values from that word, then DATE.
The end of the poll sets its count to 0 (log 12). -/
def Obligations.RtcgetMicroSteps : Prop :=
  ∀ s : State,
    (s.running = some (.rtcget, 0) → s.flagBit .rsf = 1 → ∃ t, exec .rtcget s = .next t ∧
      StepTo { s with polls := 0 } t [.rdF .rtc .rsf 1] (.run .rtcget 1)) ∧
    (s.running = some (.rtcget, 1) → ∃ t, exec .rtcget s = .next t ∧
      StepTo { s with
          trec := timeSet s.trec (unpackTr s.cfg.trLayout (s.regWord .tr)), trecKnown := timeKnown s.trecKnown } t
        [.rdR .rtc .tr (.word (s.regWord .tr))] (.run .rtcget 2)) ∧
    (s.running = some (.rtcget, 2) → ∃ t, exec .rtcget s = .next t ∧
      StepTo s t [.rdR .rtc .date (.word (s.regWord .date))] .idle)

/-! ### Whole commands, from acceptance to `done`: the last call of `exec` answers the finished state

The polls iterate: each `Wait` is any number of reads, below POLL_LIMIT, that do not have the wanted value, and then one that has. -/

/-- CONFIGURE b always completes, in exactly the 12 events of 40_i2c_master R101, and sets `configured[b]`; `held` unchanged. -/
def Obligations.ConfigureRunsToCompletion : Prop :=
  ∀ (b : BitVec 2) (s : State), s.seq = .idle → b.toNat < s.cfg.nBus → busGet s.held b = false →
    ∃ u t, runExec (.configure b) 12 s = .next u ∧ exec (.configure b) u = .next t ∧
      StepTo { s.accepted (.configure b) with configured := busSet s.configured b true } t (configureEvents s.cfg b) .idle

/-- START b, whatever number of reads SB takes to be 1 below POLL_LIMIT, completes with ACK = 1, START = 1 and those reads, and
holds the bus (40_i2c_master R102). -/
def Obligations.StartRunsToCompletion : Prop :=
  ∀ (b : BitVec 2) (s : State) (sb : Wait) (rest : List Word), Ready b s → sb.ok 1 s.cfg.pollLimit →
    s.env = .oracle (sb.answers ++ rest) →
    ∃ u t, runExec (.start b) (3 + sb.fails.length) s = .next u ∧ exec (.start b) u = .next t ∧ t.env = .oracle rest ∧
      StepTo { s.accepted (.start b) with held := busSet s.held b true } t
        ([.wrF (.i2c b) .ack (.bit 1), .wrF (.i2c b) .start (.bit 1)] ++ sb.events (.i2c b) .sb 1) .idle

/-- SENDADDR b, sel, whatever number of reads ADDR takes to be 1 below POLL_LIMIT, completes with the select byte, those reads, SR1
and SR2, whatever these two read (40_i2c_master R103). -/
def Obligations.SendaddrRunsToCompletion : Prop :=
  ∀ (b : BitVec 2) (sel : Byte) (s : State) (ad : Wait) (x1 x2 : Word) (rest : List Word), Ready b s → ad.ok 1 s.cfg.pollLimit →
    s.env = .oracle (ad.answers ++ [x1, x2] ++ rest) →
    ∃ u t, runExec (.sendaddr b sel) (4 + ad.fails.length) s = .next u ∧ exec (.sendaddr b sel) u = .next t ∧
      t.env = .oracle rest ∧ StepTo (s.accepted (.sendaddr b sel)) t (addrEvents b sel ad x1 x2) .idle

/-- STOP b always completes in one event and releases the bus (40_i2c_master R104). -/
def Obligations.StopRunsToCompletion : Prop :=
  ∀ (b : BitVec 2) (s : State), Ready b s →
    ∃ u t, runExec (.stop b) 1 s = .next u ∧ exec (.stop b) u = .next t ∧
      StepTo { s.accepted (.stop b) with held := busSet s.held b false } t [.wrF (.i2c b) .stop (.bit 1)] .idle

/-- WRITE of n bytes, 1..255, from cells the host has written, whatever number of reads each poll takes below POLL_LIMIT: start,
select byte with R/W 0, then for each byte, in index order, one TXE wait and the byte, then one BTF wait; the bus held, `rem` 0
(40_i2c_master R105, R106; 20_memory R59). `sent` pairs each TXE wait with its byte. -/
def Obligations.WriteRunsToCompletion : Prop :=
  ∀ (b : BitVec 2) (addr off n : Byte) (s : State) (sb ad btf : Wait) (x1 x2 : Word) (sent : List (Wait × Byte))
    (rest : List Word), Ready b s → n ≠ 0 → sent.length = n.toNat →
    (∀ (j : Nat) (p : Wait × Byte), sent[j]? = some p → Memory.get? s.buf (off.toNat + j) = some p.2) →
    sb.ok 1 s.cfg.pollLimit → ad.ok 1 s.cfg.pollLimit → (∀ p ∈ sent, p.1.ok 1 s.cfg.pollLimit) → btf.ok 1 s.cfg.pollLimit →
    s.env = .oracle (sb.answers ++ ad.answers ++ [x1, x2] ++ sent.flatMap (fun p => p.1.answers) ++ btf.answers ++ rest) →
    ∃ m u t, runExec (.write b addr off n) m s = .next u ∧ exec (.write b addr off n) u = .next t ∧ t.env = .oracle rest ∧
      StepTo { s.accepted (.write b addr off n) with held := busSet s.held b true, rem := 0 } t
        ([.wrF (.i2c b) .ack (.bit 1), .wrF (.i2c b) .start (.bit 1)] ++ sb.events (.i2c b) .sb 1 ++
          addrEvents b (addr &&& 0xFE) ad x1 x2 ++ dataEvents b sent btf) .idle

/-- WRDATA of n bytes, as the data phase of WRITE alone, whatever number of reads each poll takes below POLL_LIMIT: no start, no
select byte, no stop (40_i2c_master R106, R107). -/
def Obligations.WrdataRunsToCompletion : Prop :=
  ∀ (b : BitVec 2) (off n : Byte) (s : State) (btf : Wait) (sent : List (Wait × Byte)) (rest : List Word),
    Ready b s → n ≠ 0 → sent.length = n.toNat →
    (∀ (j : Nat) (p : Wait × Byte), sent[j]? = some p → Memory.get? s.buf (off.toNat + j) = some p.2) →
    (∀ p ∈ sent, p.1.ok 1 s.cfg.pollLimit) → btf.ok 1 s.cfg.pollLimit →
    s.env = .oracle (sent.flatMap (fun p => p.1.answers) ++ btf.answers ++ rest) →
    ∃ m u t, runExec (.wrdata b off n) m s = .next u ∧ exec (.wrdata b off n) u = .next t ∧ t.env = .oracle rest ∧
      StepTo { s.accepted (.wrdata b off n) with rem := 0 } t (dataEvents b sent btf) .idle

/-- READ of one byte, whatever number of reads its two polls take below POLL_LIMIT: the events of 40_i2c_master R109 in order, the
low 8 bits of the answer in BUF[off], the bus released. -/
def Obligations.ReadOneByteRunsToCompletion : Prop :=
  ∀ (b : BitVec 2) (addr off : Byte) (s : State) (ad rx : Wait) (x1 x2 v : Word) (rest : List Word), Ready b s →
    ad.ok 1 s.cfg.pollLimit → rx.ok 1 s.cfg.pollLimit → s.env = .oracle (ad.answers ++ [x1, x2] ++ rx.answers ++ [v] ++ rest) →
    ∃ u t, runExec (.read b addr off 1) (9 + ad.fails.length + rx.fails.length) s = .next u ∧
      exec (.read b addr off 1) u = .next t ∧ t.env = .oracle rest ∧
      StepTo { s.accepted (.read b addr off 1) with
          held := busSet s.held b false, rem := 0, buf := Memory.set s.buf off.toNat (v.setWidth 8) } t
        ([.wrR (.i2c b) .dr (.byte (addr ||| 0x01))] ++ ad.events (.i2c b) .addr 1 ++
          [.wrF (.i2c b) .ack (.bit 0), .wrF (.i2c b) .pos (.bit 1), .rdR (.i2c b) .sr1 (.word x1),
           .rdR (.i2c b) .sr2 (.word x2), .wrF (.i2c b) .stop (.bit 1)] ++ rx.events (.i2c b) .rxne 1 ++
          [.rdR (.i2c b) .dr (.byte (v.setWidth 8))]) .idle

/-- READ of n bytes, 2..255, whatever number of reads each poll takes below POLL_LIMIT: the address phase if RD_ADDR_ALL, then n
RXNE waits and n DR reads, ACK = 1 after each of the first n - 2 bytes, ACK = 0 and STOP = 1 after byte n - 1 and before the last
wait; the k-th byte in `BUF[off + k - 1]` (40_i2c_master R108, R110, R111; 70_reset R207). `taken` pairs each RXNE wait with the
answer to its DR read. -/
def Obligations.ReadManyBytesRunsToCompletion : Prop :=
  ∀ (b : BitVec 2) (addr off n : Byte) (s : State) (ad : Wait) (x1 x2 : Word) (taken : List (Wait × Word)) (rest : List Word),
    Ready b s → 2 ≤ n.toNat → taken.length = n.toNat → ad.ok 1 s.cfg.pollLimit → (∀ p ∈ taken, p.1.ok 1 s.cfg.pollLimit) →
    s.env = .oracle ((if s.cfg.rdAddrAll then ad.answers ++ [x1, x2] else []) ++
      taken.flatMap (fun p => p.1.answers ++ [p.2]) ++ rest) →
    ∃ m u t, runExec (.read b addr off n) m s = .next u ∧ exec (.read b addr off n) u = .next t ∧ t.env = .oracle rest ∧
      StepTo { s.accepted (.read b addr off n) with
          held := busSet s.held b false, rem := 0,
          buf := writeBytes s.buf off.toNat (taken.map (fun p => p.2.setWidth 8)) } t
        ((if s.cfg.rdAddrAll then addrEvents b (addr ||| 0x01) ad x1 x2 else []) ++
          readEvents b (taken.map (fun p => (p.1, p.2.setWidth 8)))) .idle

/-- RTCINIT, whatever number of reads its three polls take below POLL_LIMIT, completes in the order of 41_rtc_sequencer R135 and
ends Running; TREC and BUF untouched. -/
def Obligations.RtcinitRunsToCompletion : Prop :=
  ∀ (s : State) (rdy i1 i0 : Wait) (rest : List Word), s.seq = .idle → rdy.ok 1 s.cfg.pollLimit → i1.ok 1 s.cfg.pollLimit →
    i0.ok 0 s.cfg.pollLimit → s.env = .oracle (rdy.answers ++ i1.answers ++ i0.answers ++ rest) →
    ∃ u t, runExec .rtcinit (17 + rdy.fails.length + i1.fails.length + i0.fails.length) s = .next u ∧
      exec .rtcinit u = .next t ∧ t.env = .oracle rest ∧
      StepTo { s.accepted .rtcinit with rtcState := .running } t
        (rtcinitTrace s.cfg (rdy.events .bdc .lseRdy 1) (i1.events .rtc .initf 1) (i0.events .rtc .initf 0)) .idle

/-- RTCSET with TREC.HOUR, MIN, SEC written and at most 99, whatever number of reads its two polls take below POLL_LIMIT, completes
in the order of 41_rtc_sequencer R136, writing the packed time, and ends Running; BKP_WR_EN is left 1 (R145), TREC untouched. -/
def Obligations.RtcsetRunsToCompletion : Prop :=
  ∀ (s : State) (i1 i0 : Wait) (rest : List Word), s.seq = .idle → i1.ok 1 s.cfg.pollLimit → i0.ok 0 s.cfg.pollLimit →
    s.env = .oracle (i1.answers ++ i0.answers ++ rest) →
    s.trecKnown.hour = true → s.trecKnown.min = true → s.trecKnown.sec = true →
    s.trec.hour.toNat ≤ 99 → s.trec.min.toNat ≤ 99 → s.trec.sec.toNat ≤ 99 →
    ∃ w, packTr s.cfg.trLayout s.trec.hour s.trec.min s.trec.sec = some w ∧
      ∃ u t, runExec .rtcset (10 + i1.fails.length + i0.fails.length) s = .next u ∧ exec .rtcset u = .next t ∧
        t.env = .oracle rest ∧
        StepTo { s.accepted .rtcset with rtcState := .running } t
          (rtcsetTrace s.cfg w (i1.events .rtc .initf 1) (i0.events .rtc .initf 0)) .idle ∧
        Memory.get? t.ri (RiName.field .pwr .bkpWrEn).code = some (.bit 1)

/-- RTCGET, whatever number of reads RSF takes to be 1 below POLL_LIMIT, completes and puts the decoded digits of the one word read
into TREC.HOUR, MIN, SEC; the other TREC registers and `rtc_state` unchanged (41_rtc_sequencer R137). -/
def Obligations.RtcgetRunsToCompletion : Prop :=
  ∀ (s : State) (rsf : Wait) (w x : Word) (rest : List Word), s.seq = .idle → rsf.ok 1 s.cfg.pollLimit →
    s.env = .oracle (rsf.answers ++ [w, x] ++ rest) →
    ∃ u t, runExec .rtcget (3 + rsf.fails.length) s = .next u ∧ exec .rtcget u = .next t ∧ t.env = .oracle rest ∧
      StepTo { s.accepted .rtcget with
          trec := timeSet s.trec (unpackTr s.cfg.trLayout w), trecKnown := timeKnown s.trecKnown } t
        (rsf.events .rtc .rsf 1 ++ [.rdR .rtc .tr (.word w), .rdR .rtc .date (.word x)]) .idle

/-! ### Frames and whole-machine rules -/

/-- What no I2C command changes, at acceptance or at any micro-step: TREC, `rtc_state`, and (but for CONFIGURE on its own bus)
`configured`; and `held` of another bus (40_i2c_master R100 to R110). -/
def Obligations.I2cCommandsFrame : Prop :=
  ∀ (i : Instr) (b : BitVec 2) (s t : State), i.bus? = some b → exec i s = .next t →
    t.trec = s.trec ∧ t.trecKnown = s.trecKnown ∧ t.rtcState = s.rtcState ∧
      (i ≠ .configure b → t.configured = s.configured) ∧
      (∀ c, c ≠ b → busGet t.held c = busGet s.held c ∧ busGet t.configured c = busGet s.configured c) ∧
      ((i = .configure b ∨ (∃ sel, i = .sendaddr b sel) ∨ (∃ off n, i = .wrdata b off n)) → t.held = s.held) ∧
      ((i = .configure b ∨ i = .start b ∨ i = .stop b ∨ ∃ sel, i = .sendaddr b sel) → t.rem = s.rem) ∧
      t.host = s.host ∧ t.seen = s.seen ∧ t.cfg = s.cfg

/-- What no RTC command changes: BUF, `rem`, `configured`, `held`; and TREC but for RTCGET, which leaves DOM, MON, YEAR, DOW, DST;
and `rtc_state` by RTCGET (41_rtc_sequencer R130, R135 to R137, R150). -/
def Obligations.RtcCommandsFrame : Prop :=
  ∀ (i : Instr) (s t : State), i.bus? = none → exec i s = .next t →
    t.buf = s.buf ∧ t.rem = s.rem ∧ t.configured = s.configured ∧ t.held = s.held ∧
      (i ≠ .rtcget → t.trec = s.trec ∧ t.trecKnown = s.trecKnown) ∧
      (∀ f, f ≠ .hour → f ≠ .min → f ≠ .sec →
        trecGet t.trec f = trecGet s.trec f ∧ trecGet t.trecKnown f = trecGet s.trecKnown f) ∧
      (i = .rtcget → t.rtcState = s.rtcState) ∧ t.host = s.host ∧ t.seen = s.seen ∧ t.cfg = s.cfg

/-- Only READ writes BUF, and only at the index of the byte it takes: `off` for one byte, else `off + n - rem`; every other cell
reads as before (10_state R27, 20_memory R67). -/
def Obligations.OnlyReadWritesBuf : Prop :=
  (∀ (i : Instr) (s t : State), (∀ b addr off n, i ≠ .read b addr off n) → exec i s = .next t → t.buf = s.buf) ∧
  (∀ (b : BitVec 2) (addr off n : Byte) (s t : State), exec (.read b addr off n) s = .next t →
    ∀ a, a ≠ (if n = 1 then off.toNat else off.toNat + n.toNat - s.rem.toNat) →
      Memory.get? t.buf a = Memory.get? s.buf a)

/-- A command touches only its own devices: an I2C command `I2C[b]` (and CONFIGURE also `PLAT[b]`), an RTC command none of them
(40_i2c_master R100, 41_rtc_sequencer R130). -/
def Obligations.EventsStayOnOwnDevices : Prop :=
  ∀ (i : Instr) (s t : State) (e : Event) (b : BitVec 2), exec i s = .next t → t.tr = s.tr ++ [e] →
    (i.bus? = some b → e.name.dev = .i2c b ∨ (i = .configure b ∧ e.name.dev = .plat b)) ∧
    (i.bus? = none → e.name.dev ≠ .i2c b ∧ e.name.dev ≠ .plat b)

/-- START, STOP, POS and PE are only ever written 1 (10_state R36), so POS, once written, is cleared by no command (70_reset R213);
and only RTCINIT writes BKP_WR_EN 0 (41_rtc_sequencer R145). -/
def Obligations.FieldsOnlyWrittenOne : Prop :=
  ∀ (i : Instr) (s t : State) (d : Dev) (f : Field) (v : Val), exec i s = .next t → t.tr = s.tr ++ [.wrF d f v] →
    (f = .start ∨ f = .stop ∨ f = .pos ∨ f = .pe → v = .bit 1) ∧
    (f = .bkpWrEn → v = .bit 1 ∨ (i = .rtcinit ∧ v = .bit 0))

/-- TREC.DOM, MON, YEAR, DOW and DST are never read and never written by any command: whatever they hold, every command does the
same and leaves them; the date register receives DATE_PLACEHOLDER on every RTCSET (41_rtc_sequencer R150). -/
def Obligations.UnusedTimeFieldsAreNeverReadNorWritten : Prop :=
  (∀ (i : Instr) (s t : State) (f : TField) (v : Byte) (known : Bool), f ≠ .hour → f ≠ .min → f ≠ .sec → exec i s = .next t →
    (trecGet t.trec f = trecGet s.trec f ∧ trecGet t.trecKnown f = trecGet s.trecKnown f) ∧
    exec i { s with trec := trecSet s.trec f v, trecKnown := trecSet s.trecKnown f known } =
      .next { t with trec := trecSet t.trec f v, trecKnown := trecSet t.trecKnown f known }) ∧
  (∀ s : State, s.running = some (.rtcset, 6) → ∃ t, exec .rtcset s = .next t ∧
    StepTo s t [.wrR .rtc .date (.word s.cfg.datePlaceholder)] (.run .rtcset 7))

/-- Every write to PREDIV_S, PREDIV_A, FMT, TR or DATE lies between an observed INITF = 1 and the next INIT = 0, and between an
unlock and the next WPR write (41_rtc_sequencer R143, 70_reset R214, R215): it holds after reset and every step keeps it. -/
def Obligations.ProtectedWritesLieInTheWindows : Prop :=
  WindowInv State.reset ∧ ∀ s t : State, WindowInv s → step s = .next t → WindowInv t

/-! ### Binary-coded decimal -/

/-- `bcd_enc` is defined on 0..99 and nowhere else, with both digits at most 9, and `bcd_dec` inverts it; `bcd_dec` is `10*t + u`
on all 256 digit pairs (41_rtc_sequencer R131, R132). -/
def Obligations.BcdEncodeDecode : Prop :=
  (∀ v : Byte, v.toNat ≤ 99 → ∃ x, bcdEnc v = some x ∧ (tensOf x).toNat = v.toNat / 10 ∧ (unitsOf x).toNat = v.toNat % 10 ∧
    bcdDec (tensOf x) (unitsOf x) = v) ∧
  (∀ v : Byte, 99 < v.toNat → bcdEnc v = none) ∧
  (∀ t u : BitVec 4, (bcdDec t u).toNat = 10 * t.toNat + u.toNat)

/-- Under any layout of six disjoint 4-bit fields: `pack_tr` of three values at most 99 is the word whose six fields hold the
digits v / 10 and v % 10 and whose other bits are 0 (41_rtc_sequencer R133); `unpack_tr` decodes the six fields
`X = w[X + 3 : X]`, it gives a packed time back, and it ignores every bit outside the six fields (R134). -/
def Obligations.UnpackInvertsPack : Prop :=
  ∀ (l : TrLayout), l.wf = true →
    (∀ w : Word, unpackTr l w =
      { hour := bcdDec (w.extractLsb' l.ht 4) (w.extractLsb' l.hu 4)
        min := bcdDec (w.extractLsb' l.mnt 4) (w.extractLsb' l.mnu 4)
        sec := bcdDec (w.extractLsb' l.st 4) (w.extractLsb' l.su 4) }) ∧
    (∀ (h m s : Byte), h.toNat ≤ 99 → m.toNat ≤ 99 → s.toNat ≤ 99 →
      ∃ w, packTr l h m s = some w ∧
        (w.extractLsb' l.ht 4).toNat = h.toNat / 10 ∧ (w.extractLsb' l.hu 4).toNat = h.toNat % 10 ∧
        (w.extractLsb' l.mnt 4).toNat = m.toNat / 10 ∧ (w.extractLsb' l.mnu 4).toNat = m.toNat % 10 ∧
        (w.extractLsb' l.st 4).toNat = s.toNat / 10 ∧ (w.extractLsb' l.su 4).toNat = s.toNat % 10 ∧
        (∀ k, (∀ o ∈ l.offsets, k < o ∨ o + 4 ≤ k) → w.getLsbD k = false) ∧
        unpackTr l w = { hour := h, min := m, sec := s }) ∧
    (∀ w x : Word, (∀ o ∈ l.offsets, w.extractLsb' o 4 = x.extractLsb' o 4) → unpackTr l w = unpackTr l x)

/-- RTCSET then RTCGET under ENV0, with any delay, gives back the hours, minutes and seconds, whatever the host has put into TREC
in between (41_rtc_sequencer R146; 20_memory R62). -/
def Obligations.TimeRoundTripUnderEnv0 : Prop :=
  ∀ (s : State) (e : Env0) (trec : TimeRec Byte), Inv s → s.seq = .idle → s.env = .env0 e → s.cfg.pollLimit = none →
    s.trecKnown.hour = true → s.trecKnown.min = true → s.trecKnown.sec = true →
    s.trec.hour.toNat ≤ 99 → s.trec.min.toNat ≤ 99 → s.trec.sec.toNat ≤ 99 →
    ∃ m t m' u, runExec .rtcset m s = .next t ∧ t.seq = .idle ∧ runExec .rtcget m' { t with trec := trec } = .next u ∧
      u.seq = .idle ∧ u.trec = { trec with hour := s.trec.hour, min := s.trec.min, sec := s.trec.sec }

/-- RTCINIT then RTCGET, whatever number of reads each poll takes below POLL_LIMIT, when TR reads 0 as after a reset of the
peripheral, gives the time 0, 0, 0 and ends Running (41_rtc_sequencer R147; 10_state R48). -/
def Obligations.PostResetReadIsZero : Prop :=
  ∀ (s : State) (rdy i1 i0 rsf : Wait) (x : Word) (rest : List Word), s.seq = .idle → rdy.ok 1 s.cfg.pollLimit →
    i1.ok 1 s.cfg.pollLimit → i0.ok 0 s.cfg.pollLimit → rsf.ok 1 s.cfg.pollLimit →
    s.env = .oracle (rdy.answers ++ i1.answers ++ i0.answers ++ rsf.answers ++ [0, x] ++ rest) →
    ∃ t u, runExec .rtcinit (18 + rdy.fails.length + i1.fails.length + i0.fails.length) s = .next t ∧ t.seq = .idle ∧
      runExec .rtcget (4 + rsf.fails.length) t = .next u ∧ u.seq = .idle ∧
      u.trec.hour = 0 ∧ u.trec.min = 0 ∧ u.trec.sec = 0 ∧ u.rtcState = .running

/-- What ENV0 answers (20_memory R62 items 1 to 7), and what each read and write leaves of it. A flag but INITF: 0 for the first
`k` reads of a poll and then 1. INITF: after a write of INIT, the value before it for `k` reads and then the value written. DR: the
next byte of `rx`; SR1 and SR2: 0; TR and DATE: the word last written. No other write has an effect. That `pollReads` counts the
reads of one poll, and starts anew at acceptance, is the model's form (log 24). -/
def Obligations.Env0Answers : Prop :=
  ∀ (s : State) (e : Env0), s.env = .env0 e →
    (∀ d f, f ≠ .initf → s.flagBit f = (if e.pollReads < e.k then 0 else 1) ∧
      (s.rdF d f).env = .env0 { e with pollReads := if e.pollReads < e.k then e.pollReads + 1 else 0 }) ∧
    (∀ d f n, f ≠ .initf → e.pollReads = 0 → n ≤ e.k →
      (Nat.repeat (State.rdF d f) n s).flagBit f = if n < e.k then 0 else 1) ∧
    (∀ d, s.flagBit .initf = (if e.initReads < e.k then e.prevInit else e.init) ∧
      (s.rdF d .initf).env = .env0 { e with initReads := e.initReads + 1 }) ∧
    (∀ d v, (s.wrF d .init (.bit v)).env = .env0 { e with prevInit := e.init, init := v, initReads := 0 } ∧
      ∀ n, (Nat.repeat (State.rdF d .initf) n (s.wrF d .init (.bit v))).flagBit .initf = if n < e.k then e.init else v) ∧
    (∀ d f v, f ≠ .init → (s.wrF d f v).env = .env0 e) ∧
    (∀ d v rest, e.rx = v :: rest → s.drByte = v ∧ (s.rdDr d).env = .env0 { e with rx := rest }) ∧
    (∀ d r, r = .sr1 ∨ r = .sr2 ∨ r = .tr ∨ r = .date → (s.rdWord d r).env = .env0 e) ∧
    s.regWord .sr1 = 0 ∧ s.regWord .sr2 = 0 ∧ s.regWord .tr = e.tr ∧ s.regWord .date = e.date ∧
    (∀ d w, (s.wrR d .tr (.word w)).env = .env0 { e with tr := w } ∧ (s.wrR d .date (.word w)).env = .env0 { e with date := w }) ∧
    (∀ d r v, r ≠ .tr → r ≠ .date → (s.wrR d r v).env = .env0 e) ∧
    (∀ i, (s.begin i).env = .env0 { e with pollReads := 0 })

/-! ### The EEPROM client -/

/-- EEWRITE and EEREAD, presented while idle, become the host actions of 42_eeprom_client R162, R163 (EE_ADDR_BEFORE_READ false) and
R164 (true), address bytes high byte first (R161); a page and count beyond the 4096 cells have no meaning (R165). The flags say
how the host issues each action: it waits for BUSY = 0, and the commands after the first go on only while ERR is 0 (log 21). -/
def Obligations.EepromExpansions : Prop :=
  ∀ (s : State) (b : BitVec 2) (dev : Byte) (page : BitVec 16) (n : Byte) (rest : List HostItem), s.seq = .idle →
    let act : HostAction → HostItem := fun a => { act := a, timing := .whenIdle, cont := false }
    let cmd : Instr → HostItem := fun i => { act := .cmd (encode i), timing := .whenIdle, cont := true }
    let hi : Byte := page.extractLsb' 8 8
    let lo : Byte := page.extractLsb' 0 8
    (s.host = act (.eeWrite b dev page n) :: rest → page.toNat < 4096 → page.toNat + n.toNat ≤ 4096 →
      step s = .next { s with host :=
        [act (.bufWrite 0 hi), act (.bufWrite 1 lo), act (.cmd (encode (.start b))), cmd (.sendaddr b (dev &&& 0xFE)),
         cmd (.wrdata b 0 2), cmd (.wrdata b 2 n), cmd (.stop b)] ++ rest }) ∧
    (s.host = act (.eeRead b dev page n) :: rest → page.toNat < 4096 → page.toNat + n.toNat ≤ 4096 →
      step s = .next { s with host :=
        [act (.bufWrite 0 hi), act (.bufWrite 1 lo), act (.cmd (encode (.start b)))] ++
        (if s.cfg.eeAddrBeforeRead then [cmd (.sendaddr b (dev &&& 0xFE)), cmd (.wrdata b 0 2), cmd (.start b)] else []) ++
        [cmd (.sendaddr b (dev ||| 0x01)), cmd (.read b dev 2 n), cmd (.stop b)] ++ rest }) ∧
    (s.host = act (.eeWrite b dev page n) :: rest ∨ s.host = act (.eeRead b dev page n) :: rest →
      4096 ≤ page.toNat ∨ 4096 < page.toNat + n.toNat → step s = .refused .eepromRange)

/-- An expansion stops at the first command that ends with STATUS.ERR not 0: none of its remaining commands is issued, no event is
emitted, and the code stays (42_eeprom_client R166). The flag that marks a continuation is the model's form (log 21). -/
def Obligations.ExpansionStopsAtAnError : Prop :=
  ∀ (s : State) (it : HostItem) (more rest : List HostItem), s.seq = .idle → s.err ≠ 0 → it.cont = true →
    (∀ x ∈ more, x.cont = true) → (∀ x r, rest = x :: r → x.cont = false) → s.host = it :: more ++ rest →
    step s = .next { s with host := rest }

/-- EEWRITE of n bytes, n at least 1, into the 4096 cells, from an idle block with any trace, whatever number of reads each poll
takes below POLL_LIMIT: the bus carries a start (a repeated one if the trace leaves the bus held), the device byte with R/W 0, the
high and the low byte of the page, the payload in order, and a stop, and nothing else (42_eeprom_client R161, R162; 10_state
R35). `payload` pairs each byte with its TXE wait. -/
def Obligations.EewriteTransmitsInOrder : Prop :=
  ∀ (s : State) (b : BitVec 2) (dev : Byte) (page : BitVec 16) (n : Byte) (sb ad hi lo btf btf' : Wait) (x1 x2 : Word)
    (payload : List (Wait × Byte)) (rest : List Word), Ready b s →
    s.host = [{ act := .eeWrite b dev page n, timing := .whenIdle, cont := false }] → n ≠ 0 → page.toNat + n.toNat ≤ 4096 →
    payload.length = n.toNat →
    (∀ (j : Nat) (p : Wait × Byte), payload[j]? = some p → Memory.get? s.buf (2 + j) = some p.2) →
    (∀ w ∈ [sb, ad, hi, lo, btf, btf'] ++ payload.map (fun p => p.1), w.ok 1 s.cfg.pollLimit) →
    s.env = .oracle (sb.answers ++ ad.answers ++ [x1, x2] ++ hi.answers ++ lo.answers ++ btf.answers ++
      payload.flatMap (fun p => p.1.answers) ++ btf'.answers ++ rest) →
    ∃ m t es, runStep m s = .next t ∧ t.seq = .idle ∧ t.host = [] ∧ t.err = 0 ∧ t.env = .oracle rest ∧ t.tr = s.tr ++ es ∧
      txFrom b (heldByTrace b s.tr) es =
        [if heldByTrace b s.tr then .sr else .s, .byte (dev &&& 0xFE), .byte (page.extractLsb' 8 8),
         .byte (page.extractLsb' 0 8)] ++ payload.map (fun p => .byte p.2) ++ [.p]

/-! ### Waits, over any environment -/

/-- Over any environment: a command that ends by `done` has waited, in the sense of 00_scope R15, once on each of its flags but
once per byte on TXE (40_i2c_master R106) and on RXNE (R109, R110); and READ of n bytes, 1..255, has taken n bytes from DR and put
them, in order, into the n cells from BUF[off] on (R108). -/
def Obligations.WaitsAndBytesOverAnyEnvironment : Prop :=
  ∀ (i : Instr) (m : Nat) (s t : State), s.seq = .idle → Ends i m s t → t.err = 0 → ∃ es, t.tr = s.tr ++ es ∧
    let count : Dev → Flag → BitVec 1 → Nat := fun d f want => waits s.cfg.pollLimit d f want es
    (∀ b, i = .start b → count (.i2c b) .sb 1 = 1) ∧
    (∀ b sel, i = .sendaddr b sel → count (.i2c b) .addr 1 = 1) ∧
    (∀ b addr off n, i = .write b addr off n →
      count (.i2c b) .sb 1 = 1 ∧ count (.i2c b) .addr 1 = 1 ∧ count (.i2c b) .txe 1 = n.toNat ∧ count (.i2c b) .btf 1 = 1) ∧
    (∀ b off n, i = .wrdata b off n → count (.i2c b) .txe 1 = n.toNat ∧ count (.i2c b) .btf 1 = 1) ∧
    (∀ b addr off n, i = .read b addr off n →
      count (.i2c b) .addr 1 = (if n = 1 ∨ s.cfg.rdAddrAll = true then 1 else 0) ∧ count (.i2c b) .rxne 1 = n.toNat ∧
      ∃ bytes : List Byte, bytes.length = n.toNat ∧ rxProjection b es = bytes.map .byte ∧
        t.buf = writeBytes s.buf off.toNat bytes) ∧
    (i = .rtcinit → count .bdc .lseRdy 1 = 1 ∧ count .rtc .initf 1 = 1 ∧ count .rtc .initf 0 = 1) ∧
    (i = .rtcset → count .rtc .initf 1 = 1 ∧ count .rtc .initf 0 = 1) ∧
    (i = .rtcget → count .rtc .rsf 1 = 1)
end

