-- ==== Sys2Proof/Laws/Encoding.lean ====
section
/-! SUPPORT. The fields of a packed word, and a command from its latched operands. -/

namespace Sys2Proof

open Sys2Proof.Machine

variable (op : BitVec 4) (b : BitVec 2) (cnt off arg : Byte)

theorem packFields_bit (k : Nat) :
    (packFields op b cnt off arg).getLsbD k =
      if k < 8 then arg.getLsbD k else if k < 16 then off.getLsbD (k - 8) else if k < 24 then cnt.getLsbD (k - 16)
      else if k < 26 then false else if k < 28 then b.getLsbD (k - 26) else op.getLsbD (k - 28) := by
  simp only [packFields, BitVec.getLsbD_append]
  repeat' split
  all_goals first | rfl | omega | simp_all [Nat.sub_sub]

@[simp] theorem fieldOp_pack : fieldOp (packFields op b cnt off arg) = op := by
  ext k hk
  simp only [fieldOp, BitVec.getElem_extractLsb', packFields_bit]
  grind

@[simp] theorem fieldB_pack : fieldB (packFields op b cnt off arg) = b := by
  ext k hk
  simp only [fieldB, BitVec.getElem_extractLsb', packFields_bit]
  grind

@[simp] theorem fieldZ_pack : fieldZ (packFields op b cnt off arg) = 0 := by
  ext k hk
  simp only [fieldZ, BitVec.getElem_extractLsb', packFields_bit]
  grind

@[simp] theorem fieldCnt_pack : fieldCnt (packFields op b cnt off arg) = cnt := by
  ext k hk
  simp only [fieldCnt, BitVec.getElem_extractLsb', packFields_bit]
  grind

@[simp] theorem fieldOff_pack : fieldOff (packFields op b cnt off arg) = off := by
  ext k hk
  simp only [fieldOff, BitVec.getElem_extractLsb', packFields_bit]
  grind

@[simp] theorem fieldArg_pack : fieldArg (packFields op b cnt off arg) = arg := by
  ext k hk
  simp only [fieldArg, BitVec.getElem_extractLsb', packFields_bit]
  grind

/-- A word is its six fields (30_encoding R71). -/
theorem pack_fields (w : Word) (hz : fieldZ w = 0) :
    packFields (fieldOp w) (fieldB w) (fieldCnt w) (fieldOff w) (fieldArg w) = w := by
  have hz0 : w.getLsbD 24 = false := by have := congrArg (·.getLsbD 0) hz; simpa [fieldZ] using this
  have hz1 : w.getLsbD 25 = false := by have := congrArg (·.getLsbD 1) hz; simpa [fieldZ] using this
  refine BitVec.eq_of_getLsbD_eq fun k hk => ?_
  rw [packFields_bit]
  simp only [fieldOp, fieldB, fieldCnt, fieldOff, fieldArg, BitVec.getLsbD_extractLsb']
  have : k = 24 ∨ k = 25 ∨ (k ≠ 24 ∧ k ≠ 25) := by omega
  grind

/-- What a checked decode accepts. -/
theorem decodeChecked_ok {nBus : Nat} {u : Bool} {i j : Instr} :
    decodeChecked nBus u i = .ok j ↔ u = true ∧ i.wf nBus = true ∧ i = j := by
  unfold decodeChecked; split <;> [split; skip] <;> simp_all

/-- The latched operands and the command are the instruction again (10_state R24). -/
@[simp] theorem instrOf_latOf (i : Instr) : instrOf (cmdOf i) (latOf i) = i := by cases i <;> rfl

@[simp] theorem cmdOf_instrOf (c : Cmd) (l : Machine.Lat) : cmdOf (instrOf c l) = c := by cases c <;> rfl

/-- No byte count of a word exceeds CNT_MAX (00_scope R9). -/
theorem count_le_cntMax (n : Byte) : n.toNat ≤ Config.cntMax := by
  have := n.isLt; unfold Config.cntMax; omega

end Sys2Proof
end

