-- ==== Sys2Proof/Laws/Memory.lean ====
section
/-! SUPPORT. The laws of the sparse store: read after write, every other address alone, and the canonical form kept; the keys of
the Register Interface names are distinct and below 768. -/

namespace Sys2Proof.Machine

theorem Memory.get?_set_same {α : Type} (m : List (Nat × α)) (a : Nat) (v : α) :
    Memory.get? (Memory.set m a v) a = some v := by
  induction m with
  | nil => simp [Memory.set, Memory.get?]
  | cons p rest ih =>
    obtain ⟨a', v'⟩ := p
    unfold Memory.set
    split
    · simp [Memory.get?]
    · split
      · simp [Memory.get?]
      · simp [Memory.get?, *]

theorem Memory.get?_set_other {α : Type} (m : List (Nat × α)) (a a' : Nat) (v : α) (h : a' ≠ a) :
    Memory.get? (Memory.set m a v) a' = Memory.get? m a' := by
  induction m with
  | nil => simp [Memory.set, Memory.get?, h]
  | cons p rest ih =>
    obtain ⟨k, w⟩ := p
    unfold Memory.set
    split
    · simp [Memory.get?, h]
    · split
      · subst_vars; simp [Memory.get?, h]
      · simp [Memory.get?, ih]

theorem Memory.get?_set {α : Type} (m : List (Nat × α)) (a a' : Nat) (v : α) :
    Memory.get? (Memory.set m a v) a' = if a' = a then some v else Memory.get? m a' := by
  split
  · subst_vars; exact Memory.get?_set_same m _ v
  · exact Memory.get?_set_other m a a' v (by assumption)

theorem Memory.mem_set {α : Type} (m : List (Nat × α)) (a : Nat) (v : α) (p : Nat × α) (h : p ∈ Memory.set m a v) :
    p = (a, v) ∨ p ∈ m := by
  induction m with
  | nil => simpa [Memory.set] using h
  | cons q rest ih =>
    obtain ⟨k, w⟩ := q
    unfold Memory.set at h
    split at h
    · simpa using h
    · split at h <;> simp only [List.mem_cons] at h ⊢
      · tauto
      · rcases h with h | h
        · tauto
        · rcases ih h with h | h <;> tauto

/-- Every write keeps the canonical form. -/
theorem Memory.wf_set {α : Type} {bound : Nat} {m : List (Nat × α)} {a : Nat} (v : α) (h : Memory.wf bound m)
    (ha : a < bound) : Memory.wf bound (Memory.set m a v) := by
  refine ⟨fun p hp => ?_, ?_⟩
  · rcases Memory.mem_set m a v p hp with rfl | hp
    · exact ha
    · exact h.1 p hp
  · obtain ⟨-, h⟩ := h
    induction m with
    | nil => simp [Memory.set]
    | cons q rest ih =>
      obtain ⟨k, w⟩ := q
      obtain ⟨hk, hrest⟩ := List.pairwise_cons.1 h
      unfold Memory.set
      split
      · rename_i hlt
        refine List.pairwise_cons.2 ⟨fun p hp => ?_, h⟩
        rcases List.mem_cons.1 hp with rfl | hp
        · exact hlt
        · exact Nat.lt_trans hlt (hk p hp)
      · split
        · subst_vars
          exact List.pairwise_cons.2 ⟨hk, hrest⟩
        · refine List.pairwise_cons.2 ⟨fun p hp => ?_, ih hrest⟩
          rcases Memory.mem_set rest a v p hp with rfl | hp
          · simp only; omega
          · exact hk p hp

theorem Memory.wf_nil {α : Type} (bound : Nat) : Memory.wf bound ([] : List (Nat × α)) := by simp [Memory.wf]

theorem RiName.code_lt (n : RiName) : n.code < 768 := by
  have hd : ∀ d : Dev, d.code < 12 := by
    intro d
    cases d with
    | i2c b => have := b.isLt; simp only [Dev.code]; omega
    | plat b => have := b.isLt; simp only [Dev.code]; omega
    | _ => simp [Dev.code]
  have hf : ∀ f : Flag, f.code < 8 := by intro x; cases x <;> decide
  have hg : ∀ f : Field, f.code < 24 := by intro x; cases x <;> decide
  have hr : ∀ r : Reg, r.code < 6 := by intro x; cases x <;> decide
  cases n with
  | flag d f => have := hd d; have := hf f; simp only [RiName.code]; omega
  | field d f => have := hd d; have := hg f; simp only [RiName.code]; omega
  | reg d r => have := hd d; have := hr r; simp only [RiName.code]; omega

theorem Flag.code_inj : ∀ f g : Flag, f.code = g.code → f = g := by
  intro f g; cases f <;> cases g <;> simp [Flag.code]

theorem Field.code_inj : ∀ f g : Field, f.code = g.code → f = g := by
  intro f g; cases f <;> cases g <;> simp [Field.code]

theorem Reg.code_inj : ∀ f g : Reg, f.code = g.code → f = g := by
  intro f g; cases f <;> cases g <;> simp [Reg.code]

theorem Dev.code_inj (d e : Dev) (h : d.code = e.code) : d = e := by
  cases d <;> cases e <;> simp only [Dev.code, Dev.i2c.injEq, Dev.plat.injEq, reduceCtorEq] at h ⊢ <;> bv_omega

/-- Two names with one key are one name: no access is recorded under another's name. -/
theorem RiName.code_inj (m n : RiName) (h : m.code = n.code) : m = n := by
  have hf : ∀ f : Flag, f.code < 8 := by intro f; cases f <;> simp [Flag.code]
  have hg : ∀ f : Field, f.code < 24 := by intro f; cases f <;> simp [Field.code]
  have hr : ∀ r : Reg, r.code < 6 := by intro r; cases r <;> simp [Reg.code]
  cases m with
  | flag d f =>
    cases n with
    | flag e g =>
      have := hf f; have := hf g; simp only [RiName.code] at h
      rw [Dev.code_inj d e (by omega), Flag.code_inj f g (by omega)]
    | field e g => have := hf f; have := hg g; simp only [RiName.code] at h; omega
    | reg e g => have := hf f; have := hr g; simp only [RiName.code] at h; omega
  | field d f =>
    cases n with
    | flag e g => have := hg f; have := hf g; simp only [RiName.code] at h; omega
    | field e g =>
      have := hg f; have := hg g; simp only [RiName.code] at h
      rw [Dev.code_inj d e (by omega), Field.code_inj f g (by omega)]
    | reg e g => have := hg f; have := hr g; simp only [RiName.code] at h; omega
  | reg d f =>
    cases n with
    | flag e g => have := hr f; have := hf g; simp only [RiName.code] at h; omega
    | field e g => have := hr f; have := hg g; simp only [RiName.code] at h; omega
    | reg e g =>
      have := hr f; have := hr g; simp only [RiName.code] at h
      rw [Dev.code_inj d e (by omega), Reg.code_inj f g (by omega)]

end Sys2Proof.Machine
end

