-- ==== Sys2Proof/Laws/State.lean ====
section
/-! SUPPORT. One lemma per field of State per update, so that no proof unfolds a record update. -/

namespace Sys2Proof.Machine

/-! ### `State.emit` -/

@[simp] theorem State.emit_cfg (e : Event) (s : State) : (s.emit e).cfg = s.cfg := rfl
@[simp] theorem State.emit_seq (e : Event) (s : State) : (s.emit e).seq = s.seq := rfl
@[simp] theorem State.emit_lat (e : Event) (s : State) : (s.emit e).lat = s.lat := rfl
@[simp] theorem State.emit_rem (e : Event) (s : State) : (s.emit e).rem = s.rem := rfl
@[simp] theorem State.emit_polls (e : Event) (s : State) : (s.emit e).polls = s.polls := rfl
@[simp] theorem State.emit_err (e : Event) (s : State) : (s.emit e).err = s.err := rfl
@[simp] theorem State.emit_buf (e : Event) (s : State) : (s.emit e).buf = s.buf := rfl
@[simp] theorem State.emit_trec (e : Event) (s : State) : (s.emit e).trec = s.trec := rfl
@[simp] theorem State.emit_trecKnown (e : Event) (s : State) : (s.emit e).trecKnown = s.trecKnown := rfl
@[simp] theorem State.emit_configured (e : Event) (s : State) : (s.emit e).configured = s.configured := rfl
@[simp] theorem State.emit_held (e : Event) (s : State) : (s.emit e).held = s.held := rfl
@[simp] theorem State.emit_rtcState (e : Event) (s : State) : (s.emit e).rtcState = s.rtcState := rfl
@[simp] theorem State.emit_tr (e : Event) (s : State) : (s.emit e).tr = s.tr ++ [e] := rfl
@[simp] theorem State.emit_ri (e : Event) (s : State) : (s.emit e).ri = Memory.set s.ri e.name.code e.val := rfl
@[simp] theorem State.emit_env (e : Event) (s : State) : (s.emit e).env = s.env := rfl
@[simp] theorem State.emit_host (e : Event) (s : State) : (s.emit e).host = s.host := rfl
@[simp] theorem State.emit_seen (e : Event) (s : State) : (s.emit e).seen = s.seen := rfl
@[simp] theorem State.emit_draws (e : Event) (s : State) : (s.emit e).draws = s.draws := rfl

/-! ### `State.wrF` -/

@[simp] theorem State.wrF_cfg (d : Dev) (f : Field) (v : Val) (s : State) : (s.wrF d f v).cfg = s.cfg := rfl
@[simp] theorem State.wrF_seq (d : Dev) (f : Field) (v : Val) (s : State) : (s.wrF d f v).seq = s.seq := rfl
@[simp] theorem State.wrF_lat (d : Dev) (f : Field) (v : Val) (s : State) : (s.wrF d f v).lat = s.lat := rfl
@[simp] theorem State.wrF_rem (d : Dev) (f : Field) (v : Val) (s : State) : (s.wrF d f v).rem = s.rem := rfl
@[simp] theorem State.wrF_polls (d : Dev) (f : Field) (v : Val) (s : State) : (s.wrF d f v).polls = s.polls := rfl
@[simp] theorem State.wrF_err (d : Dev) (f : Field) (v : Val) (s : State) : (s.wrF d f v).err = s.err := rfl
@[simp] theorem State.wrF_buf (d : Dev) (f : Field) (v : Val) (s : State) : (s.wrF d f v).buf = s.buf := rfl
@[simp] theorem State.wrF_trec (d : Dev) (f : Field) (v : Val) (s : State) : (s.wrF d f v).trec = s.trec := rfl
@[simp] theorem State.wrF_trecKnown (d : Dev) (f : Field) (v : Val) (s : State) : (s.wrF d f v).trecKnown = s.trecKnown := rfl
@[simp] theorem State.wrF_configured (d : Dev) (f : Field) (v : Val) (s : State) : (s.wrF d f v).configured = s.configured := rfl
@[simp] theorem State.wrF_held (d : Dev) (f : Field) (v : Val) (s : State) : (s.wrF d f v).held = s.held := rfl
@[simp] theorem State.wrF_rtcState (d : Dev) (f : Field) (v : Val) (s : State) : (s.wrF d f v).rtcState = s.rtcState := rfl
@[simp] theorem State.wrF_tr (d : Dev) (f : Field) (v : Val) (s : State) : (s.wrF d f v).tr = s.tr ++ [.wrF d f v] := rfl
@[simp] theorem State.wrF_ri (d : Dev) (f : Field) (v : Val) (s : State) : (s.wrF d f v).ri = Memory.set s.ri (RiName.code (.field d f)) v := rfl
@[simp] theorem State.wrF_env (d : Dev) (f : Field) (v : Val) (s : State) : (s.wrF d f v).env = s.env.onWrF f v := rfl
@[simp] theorem State.wrF_host (d : Dev) (f : Field) (v : Val) (s : State) : (s.wrF d f v).host = s.host := rfl
@[simp] theorem State.wrF_seen (d : Dev) (f : Field) (v : Val) (s : State) : (s.wrF d f v).seen = s.seen := rfl
@[simp] theorem State.wrF_draws (d : Dev) (f : Field) (v : Val) (s : State) : (s.wrF d f v).draws = s.draws := rfl

/-! ### `State.wrR` -/

@[simp] theorem State.wrR_cfg (d : Dev) (r : Reg) (v : Val) (s : State) : (s.wrR d r v).cfg = s.cfg := rfl
@[simp] theorem State.wrR_seq (d : Dev) (r : Reg) (v : Val) (s : State) : (s.wrR d r v).seq = s.seq := rfl
@[simp] theorem State.wrR_lat (d : Dev) (r : Reg) (v : Val) (s : State) : (s.wrR d r v).lat = s.lat := rfl
@[simp] theorem State.wrR_rem (d : Dev) (r : Reg) (v : Val) (s : State) : (s.wrR d r v).rem = s.rem := rfl
@[simp] theorem State.wrR_polls (d : Dev) (r : Reg) (v : Val) (s : State) : (s.wrR d r v).polls = s.polls := rfl
@[simp] theorem State.wrR_err (d : Dev) (r : Reg) (v : Val) (s : State) : (s.wrR d r v).err = s.err := rfl
@[simp] theorem State.wrR_buf (d : Dev) (r : Reg) (v : Val) (s : State) : (s.wrR d r v).buf = s.buf := rfl
@[simp] theorem State.wrR_trec (d : Dev) (r : Reg) (v : Val) (s : State) : (s.wrR d r v).trec = s.trec := rfl
@[simp] theorem State.wrR_trecKnown (d : Dev) (r : Reg) (v : Val) (s : State) : (s.wrR d r v).trecKnown = s.trecKnown := rfl
@[simp] theorem State.wrR_configured (d : Dev) (r : Reg) (v : Val) (s : State) : (s.wrR d r v).configured = s.configured := rfl
@[simp] theorem State.wrR_held (d : Dev) (r : Reg) (v : Val) (s : State) : (s.wrR d r v).held = s.held := rfl
@[simp] theorem State.wrR_rtcState (d : Dev) (r : Reg) (v : Val) (s : State) : (s.wrR d r v).rtcState = s.rtcState := rfl
@[simp] theorem State.wrR_tr (d : Dev) (r : Reg) (v : Val) (s : State) : (s.wrR d r v).tr = s.tr ++ [.wrR d r v] := rfl
@[simp] theorem State.wrR_ri (d : Dev) (r : Reg) (v : Val) (s : State) : (s.wrR d r v).ri = Memory.set s.ri (RiName.code (.reg d r)) v := rfl
@[simp] theorem State.wrR_env (d : Dev) (r : Reg) (v : Val) (s : State) : (s.wrR d r v).env = s.env.onWrR r v := rfl
@[simp] theorem State.wrR_host (d : Dev) (r : Reg) (v : Val) (s : State) : (s.wrR d r v).host = s.host := rfl
@[simp] theorem State.wrR_seen (d : Dev) (r : Reg) (v : Val) (s : State) : (s.wrR d r v).seen = s.seen := rfl
@[simp] theorem State.wrR_draws (d : Dev) (r : Reg) (v : Val) (s : State) : (s.wrR d r v).draws = s.draws := rfl

/-! ### `State.answered` -/

@[simp] theorem State.answered_cfg (a : Answer) (s : State) : (s.answered a).cfg = s.cfg := rfl
@[simp] theorem State.answered_seq (a : Answer) (s : State) : (s.answered a).seq = s.seq := rfl
@[simp] theorem State.answered_lat (a : Answer) (s : State) : (s.answered a).lat = s.lat := rfl
@[simp] theorem State.answered_rem (a : Answer) (s : State) : (s.answered a).rem = s.rem := rfl
@[simp] theorem State.answered_polls (a : Answer) (s : State) : (s.answered a).polls = s.polls := rfl
@[simp] theorem State.answered_err (a : Answer) (s : State) : (s.answered a).err = s.err := rfl
@[simp] theorem State.answered_buf (a : Answer) (s : State) : (s.answered a).buf = s.buf := rfl
@[simp] theorem State.answered_trec (a : Answer) (s : State) : (s.answered a).trec = s.trec := rfl
@[simp] theorem State.answered_trecKnown (a : Answer) (s : State) : (s.answered a).trecKnown = s.trecKnown := rfl
@[simp] theorem State.answered_configured (a : Answer) (s : State) : (s.answered a).configured = s.configured := rfl
@[simp] theorem State.answered_held (a : Answer) (s : State) : (s.answered a).held = s.held := rfl
@[simp] theorem State.answered_rtcState (a : Answer) (s : State) : (s.answered a).rtcState = s.rtcState := rfl
@[simp] theorem State.answered_tr (a : Answer) (s : State) : (s.answered a).tr = s.tr := rfl
@[simp] theorem State.answered_ri (a : Answer) (s : State) : (s.answered a).ri = s.ri := rfl
@[simp] theorem State.answered_env (a : Answer) (s : State) : (s.answered a).env = a.env := rfl
@[simp] theorem State.answered_host (a : Answer) (s : State) : (s.answered a).host = s.host := rfl
@[simp] theorem State.answered_seen (a : Answer) (s : State) : (s.answered a).seen = s.seen := rfl
@[simp] theorem State.answered_draws (a : Answer) (s : State) : (s.answered a).draws = if a.drawn then s.draws + 1 else s.draws := rfl

/-! ### `State.rdF` -/

@[simp] theorem State.rdF_cfg (d : Dev) (f : Flag) (s : State) : (s.rdF d f).cfg = s.cfg := rfl
@[simp] theorem State.rdF_seq (d : Dev) (f : Flag) (s : State) : (s.rdF d f).seq = s.seq := rfl
@[simp] theorem State.rdF_lat (d : Dev) (f : Flag) (s : State) : (s.rdF d f).lat = s.lat := rfl
@[simp] theorem State.rdF_rem (d : Dev) (f : Flag) (s : State) : (s.rdF d f).rem = s.rem := rfl
@[simp] theorem State.rdF_polls (d : Dev) (f : Flag) (s : State) : (s.rdF d f).polls = s.polls := rfl
@[simp] theorem State.rdF_err (d : Dev) (f : Flag) (s : State) : (s.rdF d f).err = s.err := rfl
@[simp] theorem State.rdF_buf (d : Dev) (f : Flag) (s : State) : (s.rdF d f).buf = s.buf := rfl
@[simp] theorem State.rdF_trec (d : Dev) (f : Flag) (s : State) : (s.rdF d f).trec = s.trec := rfl
@[simp] theorem State.rdF_trecKnown (d : Dev) (f : Flag) (s : State) : (s.rdF d f).trecKnown = s.trecKnown := rfl
@[simp] theorem State.rdF_configured (d : Dev) (f : Flag) (s : State) : (s.rdF d f).configured = s.configured := rfl
@[simp] theorem State.rdF_held (d : Dev) (f : Flag) (s : State) : (s.rdF d f).held = s.held := rfl
@[simp] theorem State.rdF_rtcState (d : Dev) (f : Flag) (s : State) : (s.rdF d f).rtcState = s.rtcState := rfl
@[simp] theorem State.rdF_tr (d : Dev) (f : Flag) (s : State) : (s.rdF d f).tr = s.tr ++ [.rdF d f (s.flagBit f)] := rfl
@[simp] theorem State.rdF_ri (d : Dev) (f : Flag) (s : State) : (s.rdF d f).ri = Memory.set s.ri (RiName.code (.flag d f)) (.bit (s.flagBit f)) := rfl
@[simp] theorem State.rdF_env (d : Dev) (f : Flag) (s : State) : (s.rdF d f).env = (s.askFlag f).env := rfl
@[simp] theorem State.rdF_host (d : Dev) (f : Flag) (s : State) : (s.rdF d f).host = s.host := rfl
@[simp] theorem State.rdF_seen (d : Dev) (f : Flag) (s : State) : (s.rdF d f).seen = s.seen := rfl
@[simp] theorem State.rdF_draws (d : Dev) (f : Flag) (s : State) : (s.rdF d f).draws = if (s.askFlag f).drawn then s.draws + 1 else s.draws := rfl

/-! ### `State.rdWord` -/

@[simp] theorem State.rdWord_cfg (d : Dev) (r : Reg) (s : State) : (s.rdWord d r).cfg = s.cfg := rfl
@[simp] theorem State.rdWord_seq (d : Dev) (r : Reg) (s : State) : (s.rdWord d r).seq = s.seq := rfl
@[simp] theorem State.rdWord_lat (d : Dev) (r : Reg) (s : State) : (s.rdWord d r).lat = s.lat := rfl
@[simp] theorem State.rdWord_rem (d : Dev) (r : Reg) (s : State) : (s.rdWord d r).rem = s.rem := rfl
@[simp] theorem State.rdWord_polls (d : Dev) (r : Reg) (s : State) : (s.rdWord d r).polls = s.polls := rfl
@[simp] theorem State.rdWord_err (d : Dev) (r : Reg) (s : State) : (s.rdWord d r).err = s.err := rfl
@[simp] theorem State.rdWord_buf (d : Dev) (r : Reg) (s : State) : (s.rdWord d r).buf = s.buf := rfl
@[simp] theorem State.rdWord_trec (d : Dev) (r : Reg) (s : State) : (s.rdWord d r).trec = s.trec := rfl
@[simp] theorem State.rdWord_trecKnown (d : Dev) (r : Reg) (s : State) : (s.rdWord d r).trecKnown = s.trecKnown := rfl
@[simp] theorem State.rdWord_configured (d : Dev) (r : Reg) (s : State) : (s.rdWord d r).configured = s.configured := rfl
@[simp] theorem State.rdWord_held (d : Dev) (r : Reg) (s : State) : (s.rdWord d r).held = s.held := rfl
@[simp] theorem State.rdWord_rtcState (d : Dev) (r : Reg) (s : State) : (s.rdWord d r).rtcState = s.rtcState := rfl
@[simp] theorem State.rdWord_tr (d : Dev) (r : Reg) (s : State) : (s.rdWord d r).tr = s.tr ++ [.rdR d r (.word (s.regWord r))] := rfl
@[simp] theorem State.rdWord_ri (d : Dev) (r : Reg) (s : State) : (s.rdWord d r).ri = Memory.set s.ri (RiName.code (.reg d r)) (.word (s.regWord r)) := rfl
@[simp] theorem State.rdWord_env (d : Dev) (r : Reg) (s : State) : (s.rdWord d r).env = (s.askReg r).env := rfl
@[simp] theorem State.rdWord_host (d : Dev) (r : Reg) (s : State) : (s.rdWord d r).host = s.host := rfl
@[simp] theorem State.rdWord_seen (d : Dev) (r : Reg) (s : State) : (s.rdWord d r).seen = s.seen := rfl
@[simp] theorem State.rdWord_draws (d : Dev) (r : Reg) (s : State) : (s.rdWord d r).draws = if (s.askReg r).drawn then s.draws + 1 else s.draws := rfl

/-! ### `State.rdDr` -/

@[simp] theorem State.rdDr_cfg (d : Dev) (s : State) : (s.rdDr d).cfg = s.cfg := rfl
@[simp] theorem State.rdDr_seq (d : Dev) (s : State) : (s.rdDr d).seq = s.seq := rfl
@[simp] theorem State.rdDr_lat (d : Dev) (s : State) : (s.rdDr d).lat = s.lat := rfl
@[simp] theorem State.rdDr_rem (d : Dev) (s : State) : (s.rdDr d).rem = s.rem := rfl
@[simp] theorem State.rdDr_polls (d : Dev) (s : State) : (s.rdDr d).polls = s.polls := rfl
@[simp] theorem State.rdDr_err (d : Dev) (s : State) : (s.rdDr d).err = s.err := rfl
@[simp] theorem State.rdDr_buf (d : Dev) (s : State) : (s.rdDr d).buf = s.buf := rfl
@[simp] theorem State.rdDr_trec (d : Dev) (s : State) : (s.rdDr d).trec = s.trec := rfl
@[simp] theorem State.rdDr_trecKnown (d : Dev) (s : State) : (s.rdDr d).trecKnown = s.trecKnown := rfl
@[simp] theorem State.rdDr_configured (d : Dev) (s : State) : (s.rdDr d).configured = s.configured := rfl
@[simp] theorem State.rdDr_held (d : Dev) (s : State) : (s.rdDr d).held = s.held := rfl
@[simp] theorem State.rdDr_rtcState (d : Dev) (s : State) : (s.rdDr d).rtcState = s.rtcState := rfl
@[simp] theorem State.rdDr_tr (d : Dev) (s : State) : (s.rdDr d).tr = s.tr ++ [.rdR d .dr (.byte s.drByte)] := rfl
@[simp] theorem State.rdDr_ri (d : Dev) (s : State) : (s.rdDr d).ri = Memory.set s.ri (RiName.code (.reg d .dr)) (.byte s.drByte) := rfl
@[simp] theorem State.rdDr_env (d : Dev) (s : State) : (s.rdDr d).env = (s.askReg .dr).env := rfl
@[simp] theorem State.rdDr_host (d : Dev) (s : State) : (s.rdDr d).host = s.host := rfl
@[simp] theorem State.rdDr_seen (d : Dev) (s : State) : (s.rdDr d).seen = s.seen := rfl
@[simp] theorem State.rdDr_draws (d : Dev) (s : State) : (s.rdDr d).draws = if (s.askReg .dr).drawn then s.draws + 1 else s.draws := rfl

/-! ### `State.goto` -/

@[simp] theorem State.goto_cfg (k : Nat) (s : State) : (s.goto k).cfg = s.cfg := by unfold State.goto; split <;> rfl
@[simp] theorem State.goto_lat (k : Nat) (s : State) : (s.goto k).lat = s.lat := by unfold State.goto; split <;> rfl
@[simp] theorem State.goto_rem (k : Nat) (s : State) : (s.goto k).rem = s.rem := by unfold State.goto; split <;> rfl
@[simp] theorem State.goto_polls (k : Nat) (s : State) : (s.goto k).polls = s.polls := by unfold State.goto; split <;> rfl
@[simp] theorem State.goto_err (k : Nat) (s : State) : (s.goto k).err = s.err := by unfold State.goto; split <;> rfl
@[simp] theorem State.goto_buf (k : Nat) (s : State) : (s.goto k).buf = s.buf := by unfold State.goto; split <;> rfl
@[simp] theorem State.goto_trec (k : Nat) (s : State) : (s.goto k).trec = s.trec := by unfold State.goto; split <;> rfl
@[simp] theorem State.goto_trecKnown (k : Nat) (s : State) : (s.goto k).trecKnown = s.trecKnown := by unfold State.goto; split <;> rfl
@[simp] theorem State.goto_configured (k : Nat) (s : State) : (s.goto k).configured = s.configured := by unfold State.goto; split <;> rfl
@[simp] theorem State.goto_held (k : Nat) (s : State) : (s.goto k).held = s.held := by unfold State.goto; split <;> rfl
@[simp] theorem State.goto_rtcState (k : Nat) (s : State) : (s.goto k).rtcState = s.rtcState := by unfold State.goto; split <;> rfl
@[simp] theorem State.goto_tr (k : Nat) (s : State) : (s.goto k).tr = s.tr := by unfold State.goto; split <;> rfl
@[simp] theorem State.goto_ri (k : Nat) (s : State) : (s.goto k).ri = s.ri := by unfold State.goto; split <;> rfl
@[simp] theorem State.goto_env (k : Nat) (s : State) : (s.goto k).env = s.env := by unfold State.goto; split <;> rfl
@[simp] theorem State.goto_host (k : Nat) (s : State) : (s.goto k).host = s.host := by unfold State.goto; split <;> rfl
@[simp] theorem State.goto_seen (k : Nat) (s : State) : (s.goto k).seen = s.seen := by unfold State.goto; split <;> rfl
@[simp] theorem State.goto_draws (k : Nat) (s : State) : (s.goto k).draws = s.draws := by unfold State.goto; split <;> rfl

/-! ### `State.advance` -/

@[simp] theorem State.advance_cfg (s : State) : (s.advance).cfg = s.cfg := by unfold State.advance; split <;> rfl
@[simp] theorem State.advance_lat (s : State) : (s.advance).lat = s.lat := by unfold State.advance; split <;> rfl
@[simp] theorem State.advance_rem (s : State) : (s.advance).rem = s.rem := by unfold State.advance; split <;> rfl
@[simp] theorem State.advance_polls (s : State) : (s.advance).polls = s.polls := by unfold State.advance; split <;> rfl
@[simp] theorem State.advance_err (s : State) : (s.advance).err = s.err := by unfold State.advance; split <;> rfl
@[simp] theorem State.advance_buf (s : State) : (s.advance).buf = s.buf := by unfold State.advance; split <;> rfl
@[simp] theorem State.advance_trec (s : State) : (s.advance).trec = s.trec := by unfold State.advance; split <;> rfl
@[simp] theorem State.advance_trecKnown (s : State) : (s.advance).trecKnown = s.trecKnown := by unfold State.advance; split <;> rfl
@[simp] theorem State.advance_configured (s : State) : (s.advance).configured = s.configured := by unfold State.advance; split <;> rfl
@[simp] theorem State.advance_held (s : State) : (s.advance).held = s.held := by unfold State.advance; split <;> rfl
@[simp] theorem State.advance_rtcState (s : State) : (s.advance).rtcState = s.rtcState := by unfold State.advance; split <;> rfl
@[simp] theorem State.advance_tr (s : State) : (s.advance).tr = s.tr := by unfold State.advance; split <;> rfl
@[simp] theorem State.advance_ri (s : State) : (s.advance).ri = s.ri := by unfold State.advance; split <;> rfl
@[simp] theorem State.advance_env (s : State) : (s.advance).env = s.env := by unfold State.advance; split <;> rfl
@[simp] theorem State.advance_host (s : State) : (s.advance).host = s.host := by unfold State.advance; split <;> rfl
@[simp] theorem State.advance_seen (s : State) : (s.advance).seen = s.seen := by unfold State.advance; split <;> rfl
@[simp] theorem State.advance_draws (s : State) : (s.advance).draws = s.draws := by unfold State.advance; split <;> rfl

/-! ### `State.finish` -/

@[simp] theorem State.finish_cfg (s : State) : (s.finish).cfg = s.cfg := rfl
@[simp] theorem State.finish_seq (s : State) : (s.finish).seq = .idle := rfl
@[simp] theorem State.finish_lat (s : State) : (s.finish).lat = s.lat := rfl
@[simp] theorem State.finish_rem (s : State) : (s.finish).rem = s.rem := rfl
@[simp] theorem State.finish_polls (s : State) : (s.finish).polls = s.polls := rfl
@[simp] theorem State.finish_err (s : State) : (s.finish).err = s.err := rfl
@[simp] theorem State.finish_buf (s : State) : (s.finish).buf = s.buf := rfl
@[simp] theorem State.finish_trec (s : State) : (s.finish).trec = s.trec := rfl
@[simp] theorem State.finish_trecKnown (s : State) : (s.finish).trecKnown = s.trecKnown := rfl
@[simp] theorem State.finish_configured (s : State) : (s.finish).configured = s.configured := rfl
@[simp] theorem State.finish_held (s : State) : (s.finish).held = s.held := rfl
@[simp] theorem State.finish_rtcState (s : State) : (s.finish).rtcState = s.rtcState := rfl
@[simp] theorem State.finish_tr (s : State) : (s.finish).tr = s.tr := rfl
@[simp] theorem State.finish_ri (s : State) : (s.finish).ri = s.ri := rfl
@[simp] theorem State.finish_env (s : State) : (s.finish).env = s.env := rfl
@[simp] theorem State.finish_host (s : State) : (s.finish).host = s.host := rfl
@[simp] theorem State.finish_seen (s : State) : (s.finish).seen = s.seen := rfl
@[simp] theorem State.finish_draws (s : State) : (s.finish).draws = s.draws := rfl

/-! ### `State.raise` -/

@[simp] theorem State.raise_cfg (k : ErrKind) (s : State) : (s.raise k).cfg = s.cfg := rfl
@[simp] theorem State.raise_seq (k : ErrKind) (s : State) : (s.raise k).seq = .idle := rfl
@[simp] theorem State.raise_lat (k : ErrKind) (s : State) : (s.raise k).lat = s.lat := rfl
@[simp] theorem State.raise_rem (k : ErrKind) (s : State) : (s.raise k).rem = s.rem := rfl
@[simp] theorem State.raise_polls (k : ErrKind) (s : State) : (s.raise k).polls = s.polls := rfl
@[simp] theorem State.raise_err (k : ErrKind) (s : State) : (s.raise k).err = k.code := rfl
@[simp] theorem State.raise_buf (k : ErrKind) (s : State) : (s.raise k).buf = s.buf := rfl
@[simp] theorem State.raise_trec (k : ErrKind) (s : State) : (s.raise k).trec = s.trec := rfl
@[simp] theorem State.raise_trecKnown (k : ErrKind) (s : State) : (s.raise k).trecKnown = s.trecKnown := rfl
@[simp] theorem State.raise_configured (k : ErrKind) (s : State) : (s.raise k).configured = s.configured := rfl
@[simp] theorem State.raise_held (k : ErrKind) (s : State) : (s.raise k).held = s.held := rfl
@[simp] theorem State.raise_rtcState (k : ErrKind) (s : State) : (s.raise k).rtcState = s.rtcState := rfl
@[simp] theorem State.raise_tr (k : ErrKind) (s : State) : (s.raise k).tr = s.tr := rfl
@[simp] theorem State.raise_ri (k : ErrKind) (s : State) : (s.raise k).ri = s.ri := rfl
@[simp] theorem State.raise_env (k : ErrKind) (s : State) : (s.raise k).env = s.env := rfl
@[simp] theorem State.raise_host (k : ErrKind) (s : State) : (s.raise k).host = s.host := rfl
@[simp] theorem State.raise_seen (k : ErrKind) (s : State) : (s.raise k).seen = s.seen := rfl
@[simp] theorem State.raise_draws (k : ErrKind) (s : State) : (s.raise k).draws = s.draws := rfl

/-! ### `State.countPoll` -/

@[simp] theorem State.countPoll_cfg (s : State) : (s.countPoll).cfg = s.cfg := by unfold State.countPoll; split <;> rfl
@[simp] theorem State.countPoll_seq (s : State) : (s.countPoll).seq = s.seq := by unfold State.countPoll; split <;> rfl
@[simp] theorem State.countPoll_lat (s : State) : (s.countPoll).lat = s.lat := by unfold State.countPoll; split <;> rfl
@[simp] theorem State.countPoll_rem (s : State) : (s.countPoll).rem = s.rem := by unfold State.countPoll; split <;> rfl
@[simp] theorem State.countPoll_err (s : State) : (s.countPoll).err = s.err := by unfold State.countPoll; split <;> rfl
@[simp] theorem State.countPoll_buf (s : State) : (s.countPoll).buf = s.buf := by unfold State.countPoll; split <;> rfl
@[simp] theorem State.countPoll_trec (s : State) : (s.countPoll).trec = s.trec := by unfold State.countPoll; split <;> rfl
@[simp] theorem State.countPoll_trecKnown (s : State) : (s.countPoll).trecKnown = s.trecKnown := by unfold State.countPoll; split <;> rfl
@[simp] theorem State.countPoll_configured (s : State) : (s.countPoll).configured = s.configured := by unfold State.countPoll; split <;> rfl
@[simp] theorem State.countPoll_held (s : State) : (s.countPoll).held = s.held := by unfold State.countPoll; split <;> rfl
@[simp] theorem State.countPoll_rtcState (s : State) : (s.countPoll).rtcState = s.rtcState := by unfold State.countPoll; split <;> rfl
@[simp] theorem State.countPoll_tr (s : State) : (s.countPoll).tr = s.tr := by unfold State.countPoll; split <;> rfl
@[simp] theorem State.countPoll_ri (s : State) : (s.countPoll).ri = s.ri := by unfold State.countPoll; split <;> rfl
@[simp] theorem State.countPoll_env (s : State) : (s.countPoll).env = s.env := by unfold State.countPoll; split <;> rfl
@[simp] theorem State.countPoll_host (s : State) : (s.countPoll).host = s.host := by unfold State.countPoll; split <;> rfl
@[simp] theorem State.countPoll_seen (s : State) : (s.countPoll).seen = s.seen := by unfold State.countPoll; split <;> rfl
@[simp] theorem State.countPoll_draws (s : State) : (s.countPoll).draws = s.draws := by unfold State.countPoll; split <;> rfl

/-! ### `State.clearPolls` -/

@[simp] theorem State.clearPolls_cfg (s : State) : (s.clearPolls).cfg = s.cfg := rfl
@[simp] theorem State.clearPolls_seq (s : State) : (s.clearPolls).seq = s.seq := rfl
@[simp] theorem State.clearPolls_lat (s : State) : (s.clearPolls).lat = s.lat := rfl
@[simp] theorem State.clearPolls_rem (s : State) : (s.clearPolls).rem = s.rem := rfl
@[simp] theorem State.clearPolls_polls (s : State) : (s.clearPolls).polls = 0 := rfl
@[simp] theorem State.clearPolls_err (s : State) : (s.clearPolls).err = s.err := rfl
@[simp] theorem State.clearPolls_buf (s : State) : (s.clearPolls).buf = s.buf := rfl
@[simp] theorem State.clearPolls_trec (s : State) : (s.clearPolls).trec = s.trec := rfl
@[simp] theorem State.clearPolls_trecKnown (s : State) : (s.clearPolls).trecKnown = s.trecKnown := rfl
@[simp] theorem State.clearPolls_configured (s : State) : (s.clearPolls).configured = s.configured := rfl
@[simp] theorem State.clearPolls_held (s : State) : (s.clearPolls).held = s.held := rfl
@[simp] theorem State.clearPolls_rtcState (s : State) : (s.clearPolls).rtcState = s.rtcState := rfl
@[simp] theorem State.clearPolls_tr (s : State) : (s.clearPolls).tr = s.tr := rfl
@[simp] theorem State.clearPolls_ri (s : State) : (s.clearPolls).ri = s.ri := rfl
@[simp] theorem State.clearPolls_env (s : State) : (s.clearPolls).env = s.env := rfl
@[simp] theorem State.clearPolls_host (s : State) : (s.clearPolls).host = s.host := rfl
@[simp] theorem State.clearPolls_seen (s : State) : (s.clearPolls).seen = s.seen := rfl
@[simp] theorem State.clearPolls_draws (s : State) : (s.clearPolls).draws = s.draws := rfl

/-! ### `State.latch` -/

@[simp] theorem State.latch_cfg (i : Instr) (s : State) : (s.latch i).cfg = s.cfg := rfl
@[simp] theorem State.latch_seq (i : Instr) (s : State) : (s.latch i).seq = s.seq := rfl
@[simp] theorem State.latch_lat (i : Instr) (s : State) : (s.latch i).lat = latOf i := rfl
@[simp] theorem State.latch_rem (i : Instr) (s : State) : (s.latch i).rem = s.rem := rfl
@[simp] theorem State.latch_polls (i : Instr) (s : State) : (s.latch i).polls = s.polls := rfl
@[simp] theorem State.latch_err (i : Instr) (s : State) : (s.latch i).err = 0 := rfl
@[simp] theorem State.latch_buf (i : Instr) (s : State) : (s.latch i).buf = s.buf := rfl
@[simp] theorem State.latch_trec (i : Instr) (s : State) : (s.latch i).trec = s.trec := rfl
@[simp] theorem State.latch_trecKnown (i : Instr) (s : State) : (s.latch i).trecKnown = s.trecKnown := rfl
@[simp] theorem State.latch_configured (i : Instr) (s : State) : (s.latch i).configured = s.configured := rfl
@[simp] theorem State.latch_held (i : Instr) (s : State) : (s.latch i).held = s.held := rfl
@[simp] theorem State.latch_rtcState (i : Instr) (s : State) : (s.latch i).rtcState = s.rtcState := rfl
@[simp] theorem State.latch_tr (i : Instr) (s : State) : (s.latch i).tr = s.tr := rfl
@[simp] theorem State.latch_ri (i : Instr) (s : State) : (s.latch i).ri = s.ri := rfl
@[simp] theorem State.latch_env (i : Instr) (s : State) : (s.latch i).env = s.env := rfl
@[simp] theorem State.latch_host (i : Instr) (s : State) : (s.latch i).host = s.host := rfl
@[simp] theorem State.latch_seen (i : Instr) (s : State) : (s.latch i).seen = s.seen := rfl
@[simp] theorem State.latch_draws (i : Instr) (s : State) : (s.latch i).draws = s.draws := rfl

/-! ### `State.begin` -/

@[simp] theorem State.begin_cfg (i : Instr) (s : State) : (s.begin i).cfg = s.cfg := rfl
@[simp] theorem State.begin_seq (i : Instr) (s : State) : (s.begin i).seq = .run (cmdOf i) 0 := rfl
@[simp] theorem State.begin_lat (i : Instr) (s : State) : (s.begin i).lat = s.lat := rfl
@[simp] theorem State.begin_rem (i : Instr) (s : State) : (s.begin i).rem = s.rem := rfl
@[simp] theorem State.begin_polls (i : Instr) (s : State) : (s.begin i).polls = 0 := rfl
@[simp] theorem State.begin_err (i : Instr) (s : State) : (s.begin i).err = s.err := rfl
@[simp] theorem State.begin_buf (i : Instr) (s : State) : (s.begin i).buf = s.buf := rfl
@[simp] theorem State.begin_trec (i : Instr) (s : State) : (s.begin i).trec = s.trec := rfl
@[simp] theorem State.begin_trecKnown (i : Instr) (s : State) : (s.begin i).trecKnown = s.trecKnown := rfl
@[simp] theorem State.begin_configured (i : Instr) (s : State) : (s.begin i).configured = s.configured := rfl
@[simp] theorem State.begin_held (i : Instr) (s : State) : (s.begin i).held = s.held := rfl
@[simp] theorem State.begin_rtcState (i : Instr) (s : State) : (s.begin i).rtcState = s.rtcState := rfl
@[simp] theorem State.begin_tr (i : Instr) (s : State) : (s.begin i).tr = s.tr := rfl
@[simp] theorem State.begin_ri (i : Instr) (s : State) : (s.begin i).ri = s.ri := rfl
@[simp] theorem State.begin_env (i : Instr) (s : State) : (s.begin i).env = s.env.newCommand := rfl
@[simp] theorem State.begin_host (i : Instr) (s : State) : (s.begin i).host = s.host := rfl
@[simp] theorem State.begin_seen (i : Instr) (s : State) : (s.begin i).seen = s.seen := rfl
@[simp] theorem State.begin_draws (i : Instr) (s : State) : (s.begin i).draws = s.draws := rfl

/-! ### `State.setHeld` -/

@[simp] theorem State.setHeld_cfg (b : BitVec 2) (x : Bool) (s : State) : (s.setHeld b x).cfg = s.cfg := rfl
@[simp] theorem State.setHeld_seq (b : BitVec 2) (x : Bool) (s : State) : (s.setHeld b x).seq = s.seq := rfl
@[simp] theorem State.setHeld_lat (b : BitVec 2) (x : Bool) (s : State) : (s.setHeld b x).lat = s.lat := rfl
@[simp] theorem State.setHeld_rem (b : BitVec 2) (x : Bool) (s : State) : (s.setHeld b x).rem = s.rem := rfl
@[simp] theorem State.setHeld_polls (b : BitVec 2) (x : Bool) (s : State) : (s.setHeld b x).polls = s.polls := rfl
@[simp] theorem State.setHeld_err (b : BitVec 2) (x : Bool) (s : State) : (s.setHeld b x).err = s.err := rfl
@[simp] theorem State.setHeld_buf (b : BitVec 2) (x : Bool) (s : State) : (s.setHeld b x).buf = s.buf := rfl
@[simp] theorem State.setHeld_trec (b : BitVec 2) (x : Bool) (s : State) : (s.setHeld b x).trec = s.trec := rfl
@[simp] theorem State.setHeld_trecKnown (b : BitVec 2) (x : Bool) (s : State) : (s.setHeld b x).trecKnown = s.trecKnown := rfl
@[simp] theorem State.setHeld_configured (b : BitVec 2) (x : Bool) (s : State) : (s.setHeld b x).configured = s.configured := rfl
@[simp] theorem State.setHeld_held (b : BitVec 2) (x : Bool) (s : State) : (s.setHeld b x).held = busSet s.held b x := rfl
@[simp] theorem State.setHeld_rtcState (b : BitVec 2) (x : Bool) (s : State) : (s.setHeld b x).rtcState = s.rtcState := rfl
@[simp] theorem State.setHeld_tr (b : BitVec 2) (x : Bool) (s : State) : (s.setHeld b x).tr = s.tr := rfl
@[simp] theorem State.setHeld_ri (b : BitVec 2) (x : Bool) (s : State) : (s.setHeld b x).ri = s.ri := rfl
@[simp] theorem State.setHeld_env (b : BitVec 2) (x : Bool) (s : State) : (s.setHeld b x).env = s.env := rfl
@[simp] theorem State.setHeld_host (b : BitVec 2) (x : Bool) (s : State) : (s.setHeld b x).host = s.host := rfl
@[simp] theorem State.setHeld_seen (b : BitVec 2) (x : Bool) (s : State) : (s.setHeld b x).seen = s.seen := rfl
@[simp] theorem State.setHeld_draws (b : BitVec 2) (x : Bool) (s : State) : (s.setHeld b x).draws = s.draws := rfl

/-! ### `State.setConfigured` -/

@[simp] theorem State.setConfigured_cfg (b : BitVec 2) (s : State) : (s.setConfigured b).cfg = s.cfg := rfl
@[simp] theorem State.setConfigured_seq (b : BitVec 2) (s : State) : (s.setConfigured b).seq = s.seq := rfl
@[simp] theorem State.setConfigured_lat (b : BitVec 2) (s : State) : (s.setConfigured b).lat = s.lat := rfl
@[simp] theorem State.setConfigured_rem (b : BitVec 2) (s : State) : (s.setConfigured b).rem = s.rem := rfl
@[simp] theorem State.setConfigured_polls (b : BitVec 2) (s : State) : (s.setConfigured b).polls = s.polls := rfl
@[simp] theorem State.setConfigured_err (b : BitVec 2) (s : State) : (s.setConfigured b).err = s.err := rfl
@[simp] theorem State.setConfigured_buf (b : BitVec 2) (s : State) : (s.setConfigured b).buf = s.buf := rfl
@[simp] theorem State.setConfigured_trec (b : BitVec 2) (s : State) : (s.setConfigured b).trec = s.trec := rfl
@[simp] theorem State.setConfigured_trecKnown (b : BitVec 2) (s : State) : (s.setConfigured b).trecKnown = s.trecKnown := rfl
@[simp] theorem State.setConfigured_configured (b : BitVec 2) (s : State) : (s.setConfigured b).configured = busSet s.configured b true := rfl
@[simp] theorem State.setConfigured_held (b : BitVec 2) (s : State) : (s.setConfigured b).held = s.held := rfl
@[simp] theorem State.setConfigured_rtcState (b : BitVec 2) (s : State) : (s.setConfigured b).rtcState = s.rtcState := rfl
@[simp] theorem State.setConfigured_tr (b : BitVec 2) (s : State) : (s.setConfigured b).tr = s.tr := rfl
@[simp] theorem State.setConfigured_ri (b : BitVec 2) (s : State) : (s.setConfigured b).ri = s.ri := rfl
@[simp] theorem State.setConfigured_env (b : BitVec 2) (s : State) : (s.setConfigured b).env = s.env := rfl
@[simp] theorem State.setConfigured_host (b : BitVec 2) (s : State) : (s.setConfigured b).host = s.host := rfl
@[simp] theorem State.setConfigured_seen (b : BitVec 2) (s : State) : (s.setConfigured b).seen = s.seen := rfl
@[simp] theorem State.setConfigured_draws (b : BitVec 2) (s : State) : (s.setConfigured b).draws = s.draws := rfl

/-! ### `State.setRtc` -/

@[simp] theorem State.setRtc_cfg (x : RtcState) (s : State) : (s.setRtc x).cfg = s.cfg := rfl
@[simp] theorem State.setRtc_seq (x : RtcState) (s : State) : (s.setRtc x).seq = s.seq := rfl
@[simp] theorem State.setRtc_lat (x : RtcState) (s : State) : (s.setRtc x).lat = s.lat := rfl
@[simp] theorem State.setRtc_rem (x : RtcState) (s : State) : (s.setRtc x).rem = s.rem := rfl
@[simp] theorem State.setRtc_polls (x : RtcState) (s : State) : (s.setRtc x).polls = s.polls := rfl
@[simp] theorem State.setRtc_err (x : RtcState) (s : State) : (s.setRtc x).err = s.err := rfl
@[simp] theorem State.setRtc_buf (x : RtcState) (s : State) : (s.setRtc x).buf = s.buf := rfl
@[simp] theorem State.setRtc_trec (x : RtcState) (s : State) : (s.setRtc x).trec = s.trec := rfl
@[simp] theorem State.setRtc_trecKnown (x : RtcState) (s : State) : (s.setRtc x).trecKnown = s.trecKnown := rfl
@[simp] theorem State.setRtc_configured (x : RtcState) (s : State) : (s.setRtc x).configured = s.configured := rfl
@[simp] theorem State.setRtc_held (x : RtcState) (s : State) : (s.setRtc x).held = s.held := rfl
@[simp] theorem State.setRtc_rtcState (x : RtcState) (s : State) : (s.setRtc x).rtcState = x := rfl
@[simp] theorem State.setRtc_tr (x : RtcState) (s : State) : (s.setRtc x).tr = s.tr := rfl
@[simp] theorem State.setRtc_ri (x : RtcState) (s : State) : (s.setRtc x).ri = s.ri := rfl
@[simp] theorem State.setRtc_env (x : RtcState) (s : State) : (s.setRtc x).env = s.env := rfl
@[simp] theorem State.setRtc_host (x : RtcState) (s : State) : (s.setRtc x).host = s.host := rfl
@[simp] theorem State.setRtc_seen (x : RtcState) (s : State) : (s.setRtc x).seen = s.seen := rfl
@[simp] theorem State.setRtc_draws (x : RtcState) (s : State) : (s.setRtc x).draws = s.draws := rfl

/-! ### `State.requestStop` -/

@[simp] theorem State.requestStop_cfg (b : BitVec 2) (s : State) : (s.requestStop b).cfg = s.cfg := rfl
@[simp] theorem State.requestStop_seq (b : BitVec 2) (s : State) : (s.requestStop b).seq = s.seq := rfl
@[simp] theorem State.requestStop_lat (b : BitVec 2) (s : State) : (s.requestStop b).lat = s.lat := rfl
@[simp] theorem State.requestStop_rem (b : BitVec 2) (s : State) : (s.requestStop b).rem = s.rem := rfl
@[simp] theorem State.requestStop_polls (b : BitVec 2) (s : State) : (s.requestStop b).polls = s.polls := rfl
@[simp] theorem State.requestStop_err (b : BitVec 2) (s : State) : (s.requestStop b).err = s.err := rfl
@[simp] theorem State.requestStop_buf (b : BitVec 2) (s : State) : (s.requestStop b).buf = s.buf := rfl
@[simp] theorem State.requestStop_trec (b : BitVec 2) (s : State) : (s.requestStop b).trec = s.trec := rfl
@[simp] theorem State.requestStop_trecKnown (b : BitVec 2) (s : State) : (s.requestStop b).trecKnown = s.trecKnown := rfl
@[simp] theorem State.requestStop_configured (b : BitVec 2) (s : State) : (s.requestStop b).configured = s.configured := rfl
@[simp] theorem State.requestStop_held (b : BitVec 2) (s : State) : (s.requestStop b).held = busSet s.held b false := rfl
@[simp] theorem State.requestStop_rtcState (b : BitVec 2) (s : State) : (s.requestStop b).rtcState = s.rtcState := rfl
@[simp] theorem State.requestStop_tr (b : BitVec 2) (s : State) : (s.requestStop b).tr = s.tr ++ [.wrF (.i2c b) .stop (.bit 1)] := rfl
@[simp] theorem State.requestStop_ri (b : BitVec 2) (s : State) : (s.requestStop b).ri = Memory.set s.ri (RiName.code (.field (.i2c b) .stop)) (.bit 1) := rfl
@[simp] theorem State.requestStop_env (b : BitVec 2) (s : State) : (s.requestStop b).env = s.env.onWrF .stop (.bit 1) := rfl
@[simp] theorem State.requestStop_host (b : BitVec 2) (s : State) : (s.requestStop b).host = s.host := rfl
@[simp] theorem State.requestStop_seen (b : BitVec 2) (s : State) : (s.requestStop b).seen = s.seen := rfl
@[simp] theorem State.requestStop_draws (b : BitVec 2) (s : State) : (s.requestStop b).draws = s.draws := rfl

/-! ### `State.writeBuf` -/

@[simp] theorem State.writeBuf_cfg (i : Nat) (v : Byte) (s : State) : (s.writeBuf i v).cfg = s.cfg := rfl
@[simp] theorem State.writeBuf_seq (i : Nat) (v : Byte) (s : State) : (s.writeBuf i v).seq = s.seq := rfl
@[simp] theorem State.writeBuf_lat (i : Nat) (v : Byte) (s : State) : (s.writeBuf i v).lat = s.lat := rfl
@[simp] theorem State.writeBuf_rem (i : Nat) (v : Byte) (s : State) : (s.writeBuf i v).rem = s.rem := rfl
@[simp] theorem State.writeBuf_polls (i : Nat) (v : Byte) (s : State) : (s.writeBuf i v).polls = s.polls := rfl
@[simp] theorem State.writeBuf_err (i : Nat) (v : Byte) (s : State) : (s.writeBuf i v).err = s.err := rfl
@[simp] theorem State.writeBuf_buf (i : Nat) (v : Byte) (s : State) : (s.writeBuf i v).buf = Memory.set s.buf i v := rfl
@[simp] theorem State.writeBuf_trec (i : Nat) (v : Byte) (s : State) : (s.writeBuf i v).trec = s.trec := rfl
@[simp] theorem State.writeBuf_trecKnown (i : Nat) (v : Byte) (s : State) : (s.writeBuf i v).trecKnown = s.trecKnown := rfl
@[simp] theorem State.writeBuf_configured (i : Nat) (v : Byte) (s : State) : (s.writeBuf i v).configured = s.configured := rfl
@[simp] theorem State.writeBuf_held (i : Nat) (v : Byte) (s : State) : (s.writeBuf i v).held = s.held := rfl
@[simp] theorem State.writeBuf_rtcState (i : Nat) (v : Byte) (s : State) : (s.writeBuf i v).rtcState = s.rtcState := rfl
@[simp] theorem State.writeBuf_tr (i : Nat) (v : Byte) (s : State) : (s.writeBuf i v).tr = s.tr := rfl
@[simp] theorem State.writeBuf_ri (i : Nat) (v : Byte) (s : State) : (s.writeBuf i v).ri = s.ri := rfl
@[simp] theorem State.writeBuf_env (i : Nat) (v : Byte) (s : State) : (s.writeBuf i v).env = s.env := rfl
@[simp] theorem State.writeBuf_host (i : Nat) (v : Byte) (s : State) : (s.writeBuf i v).host = s.host := rfl
@[simp] theorem State.writeBuf_seen (i : Nat) (v : Byte) (s : State) : (s.writeBuf i v).seen = s.seen := rfl
@[simp] theorem State.writeBuf_draws (i : Nat) (v : Byte) (s : State) : (s.writeBuf i v).draws = s.draws := rfl

/-! ### the state after `State.readBuf` -/

@[simp] theorem State.readBuf_cfg (i : Nat) (s : State) : ((s.readBuf i).2).cfg = s.cfg := by unfold State.readBuf; split <;> rfl
@[simp] theorem State.readBuf_seq (i : Nat) (s : State) : ((s.readBuf i).2).seq = s.seq := by unfold State.readBuf; split <;> rfl
@[simp] theorem State.readBuf_lat (i : Nat) (s : State) : ((s.readBuf i).2).lat = s.lat := by unfold State.readBuf; split <;> rfl
@[simp] theorem State.readBuf_rem (i : Nat) (s : State) : ((s.readBuf i).2).rem = s.rem := by unfold State.readBuf; split <;> rfl
@[simp] theorem State.readBuf_polls (i : Nat) (s : State) : ((s.readBuf i).2).polls = s.polls := by unfold State.readBuf; split <;> rfl
@[simp] theorem State.readBuf_err (i : Nat) (s : State) : ((s.readBuf i).2).err = s.err := by unfold State.readBuf; split <;> rfl
@[simp] theorem State.readBuf_buf (i : Nat) (s : State) : ((s.readBuf i).2).buf = s.buf := by unfold State.readBuf; split <;> rfl
@[simp] theorem State.readBuf_trec (i : Nat) (s : State) : ((s.readBuf i).2).trec = s.trec := by unfold State.readBuf; split <;> rfl
@[simp] theorem State.readBuf_trecKnown (i : Nat) (s : State) : ((s.readBuf i).2).trecKnown = s.trecKnown := by unfold State.readBuf; split <;> rfl
@[simp] theorem State.readBuf_configured (i : Nat) (s : State) : ((s.readBuf i).2).configured = s.configured := by unfold State.readBuf; split <;> rfl
@[simp] theorem State.readBuf_held (i : Nat) (s : State) : ((s.readBuf i).2).held = s.held := by unfold State.readBuf; split <;> rfl
@[simp] theorem State.readBuf_rtcState (i : Nat) (s : State) : ((s.readBuf i).2).rtcState = s.rtcState := by unfold State.readBuf; split <;> rfl
@[simp] theorem State.readBuf_tr (i : Nat) (s : State) : ((s.readBuf i).2).tr = s.tr := by unfold State.readBuf; split <;> rfl
@[simp] theorem State.readBuf_ri (i : Nat) (s : State) : ((s.readBuf i).2).ri = s.ri := by unfold State.readBuf; split <;> rfl
@[simp] theorem State.readBuf_env (i : Nat) (s : State) : ((s.readBuf i).2).env = s.env := by unfold State.readBuf; split <;> rfl
@[simp] theorem State.readBuf_host (i : Nat) (s : State) : ((s.readBuf i).2).host = s.host := by unfold State.readBuf; split <;> rfl
@[simp] theorem State.readBuf_seen (i : Nat) (s : State) : ((s.readBuf i).2).seen = s.seen := by unfold State.readBuf; split <;> rfl

/-! ### `State.writeTrec` -/

@[simp] theorem State.writeTrec_cfg (f : TField) (v : Byte) (s : State) : (s.writeTrec f v).cfg = s.cfg := rfl
@[simp] theorem State.writeTrec_seq (f : TField) (v : Byte) (s : State) : (s.writeTrec f v).seq = s.seq := rfl
@[simp] theorem State.writeTrec_lat (f : TField) (v : Byte) (s : State) : (s.writeTrec f v).lat = s.lat := rfl
@[simp] theorem State.writeTrec_rem (f : TField) (v : Byte) (s : State) : (s.writeTrec f v).rem = s.rem := rfl
@[simp] theorem State.writeTrec_polls (f : TField) (v : Byte) (s : State) : (s.writeTrec f v).polls = s.polls := rfl
@[simp] theorem State.writeTrec_err (f : TField) (v : Byte) (s : State) : (s.writeTrec f v).err = s.err := rfl
@[simp] theorem State.writeTrec_buf (f : TField) (v : Byte) (s : State) : (s.writeTrec f v).buf = s.buf := rfl
@[simp] theorem State.writeTrec_trec (f : TField) (v : Byte) (s : State) : (s.writeTrec f v).trec = trecSet s.trec f v := rfl
@[simp] theorem State.writeTrec_trecKnown (f : TField) (v : Byte) (s : State) : (s.writeTrec f v).trecKnown = trecSet s.trecKnown f true := rfl
@[simp] theorem State.writeTrec_configured (f : TField) (v : Byte) (s : State) : (s.writeTrec f v).configured = s.configured := rfl
@[simp] theorem State.writeTrec_held (f : TField) (v : Byte) (s : State) : (s.writeTrec f v).held = s.held := rfl
@[simp] theorem State.writeTrec_rtcState (f : TField) (v : Byte) (s : State) : (s.writeTrec f v).rtcState = s.rtcState := rfl
@[simp] theorem State.writeTrec_tr (f : TField) (v : Byte) (s : State) : (s.writeTrec f v).tr = s.tr := rfl
@[simp] theorem State.writeTrec_ri (f : TField) (v : Byte) (s : State) : (s.writeTrec f v).ri = s.ri := rfl
@[simp] theorem State.writeTrec_env (f : TField) (v : Byte) (s : State) : (s.writeTrec f v).env = s.env := rfl
@[simp] theorem State.writeTrec_host (f : TField) (v : Byte) (s : State) : (s.writeTrec f v).host = s.host := rfl
@[simp] theorem State.writeTrec_seen (f : TField) (v : Byte) (s : State) : (s.writeTrec f v).seen = s.seen := rfl
@[simp] theorem State.writeTrec_draws (f : TField) (v : Byte) (s : State) : (s.writeTrec f v).draws = s.draws := rfl

/-! ### the state after `State.readTrec` -/

@[simp] theorem State.readTrec_cfg (f : TField) (s : State) : ((s.readTrec f).2).cfg = s.cfg := by unfold State.readTrec; split <;> rfl
@[simp] theorem State.readTrec_seq (f : TField) (s : State) : ((s.readTrec f).2).seq = s.seq := by unfold State.readTrec; split <;> rfl
@[simp] theorem State.readTrec_lat (f : TField) (s : State) : ((s.readTrec f).2).lat = s.lat := by unfold State.readTrec; split <;> rfl
@[simp] theorem State.readTrec_rem (f : TField) (s : State) : ((s.readTrec f).2).rem = s.rem := by unfold State.readTrec; split <;> rfl
@[simp] theorem State.readTrec_polls (f : TField) (s : State) : ((s.readTrec f).2).polls = s.polls := by unfold State.readTrec; split <;> rfl
@[simp] theorem State.readTrec_err (f : TField) (s : State) : ((s.readTrec f).2).err = s.err := by unfold State.readTrec; split <;> rfl
@[simp] theorem State.readTrec_buf (f : TField) (s : State) : ((s.readTrec f).2).buf = s.buf := by unfold State.readTrec; split <;> rfl
@[simp] theorem State.readTrec_trec (f : TField) (s : State) : ((s.readTrec f).2).trec = s.trec := by unfold State.readTrec; split <;> rfl
@[simp] theorem State.readTrec_trecKnown (f : TField) (s : State) : ((s.readTrec f).2).trecKnown = s.trecKnown := by unfold State.readTrec; split <;> rfl
@[simp] theorem State.readTrec_configured (f : TField) (s : State) : ((s.readTrec f).2).configured = s.configured := by unfold State.readTrec; split <;> rfl
@[simp] theorem State.readTrec_held (f : TField) (s : State) : ((s.readTrec f).2).held = s.held := by unfold State.readTrec; split <;> rfl
@[simp] theorem State.readTrec_rtcState (f : TField) (s : State) : ((s.readTrec f).2).rtcState = s.rtcState := by unfold State.readTrec; split <;> rfl
@[simp] theorem State.readTrec_tr (f : TField) (s : State) : ((s.readTrec f).2).tr = s.tr := by unfold State.readTrec; split <;> rfl
@[simp] theorem State.readTrec_ri (f : TField) (s : State) : ((s.readTrec f).2).ri = s.ri := by unfold State.readTrec; split <;> rfl
@[simp] theorem State.readTrec_env (f : TField) (s : State) : ((s.readTrec f).2).env = s.env := by unfold State.readTrec; split <;> rfl
@[simp] theorem State.readTrec_host (f : TField) (s : State) : ((s.readTrec f).2).host = s.host := by unfold State.readTrec; split <;> rfl
@[simp] theorem State.readTrec_seen (f : TField) (s : State) : ((s.readTrec f).2).seen = s.seen := by unfold State.readTrec; split <;> rfl

/-! ### `State.see` -/

@[simp] theorem State.see_cfg (p : HostPort) (v : Word) (s : State) : (s.see p v).cfg = s.cfg := rfl
@[simp] theorem State.see_seq (p : HostPort) (v : Word) (s : State) : (s.see p v).seq = s.seq := rfl
@[simp] theorem State.see_lat (p : HostPort) (v : Word) (s : State) : (s.see p v).lat = s.lat := rfl
@[simp] theorem State.see_rem (p : HostPort) (v : Word) (s : State) : (s.see p v).rem = s.rem := rfl
@[simp] theorem State.see_polls (p : HostPort) (v : Word) (s : State) : (s.see p v).polls = s.polls := rfl
@[simp] theorem State.see_err (p : HostPort) (v : Word) (s : State) : (s.see p v).err = s.err := rfl
@[simp] theorem State.see_buf (p : HostPort) (v : Word) (s : State) : (s.see p v).buf = s.buf := rfl
@[simp] theorem State.see_trec (p : HostPort) (v : Word) (s : State) : (s.see p v).trec = s.trec := rfl
@[simp] theorem State.see_trecKnown (p : HostPort) (v : Word) (s : State) : (s.see p v).trecKnown = s.trecKnown := rfl
@[simp] theorem State.see_configured (p : HostPort) (v : Word) (s : State) : (s.see p v).configured = s.configured := rfl
@[simp] theorem State.see_held (p : HostPort) (v : Word) (s : State) : (s.see p v).held = s.held := rfl
@[simp] theorem State.see_rtcState (p : HostPort) (v : Word) (s : State) : (s.see p v).rtcState = s.rtcState := rfl
@[simp] theorem State.see_tr (p : HostPort) (v : Word) (s : State) : (s.see p v).tr = s.tr := rfl
@[simp] theorem State.see_ri (p : HostPort) (v : Word) (s : State) : (s.see p v).ri = s.ri := rfl
@[simp] theorem State.see_env (p : HostPort) (v : Word) (s : State) : (s.see p v).env = s.env := rfl
@[simp] theorem State.see_host (p : HostPort) (v : Word) (s : State) : (s.see p v).host = s.host := rfl
@[simp] theorem State.see_seen (p : HostPort) (v : Word) (s : State) : (s.see p v).seen = s.seen ++ [{ port := p, val := v }] := rfl
@[simp] theorem State.see_draws (p : HostPort) (v : Word) (s : State) : (s.see p v).draws = s.draws := rfl

/-! ### `State.foreign` -/

@[simp] theorem State.foreign_cfg (d : Dev) (f : Field) (v : Val) (s : State) : (s.foreign d f v).cfg = s.cfg := rfl
@[simp] theorem State.foreign_seq (d : Dev) (f : Field) (v : Val) (s : State) : (s.foreign d f v).seq = s.seq := rfl
@[simp] theorem State.foreign_lat (d : Dev) (f : Field) (v : Val) (s : State) : (s.foreign d f v).lat = s.lat := rfl
@[simp] theorem State.foreign_rem (d : Dev) (f : Field) (v : Val) (s : State) : (s.foreign d f v).rem = s.rem := rfl
@[simp] theorem State.foreign_polls (d : Dev) (f : Field) (v : Val) (s : State) : (s.foreign d f v).polls = s.polls := rfl
@[simp] theorem State.foreign_err (d : Dev) (f : Field) (v : Val) (s : State) : (s.foreign d f v).err = s.err := rfl
@[simp] theorem State.foreign_buf (d : Dev) (f : Field) (v : Val) (s : State) : (s.foreign d f v).buf = s.buf := rfl
@[simp] theorem State.foreign_trec (d : Dev) (f : Field) (v : Val) (s : State) : (s.foreign d f v).trec = s.trec := rfl
@[simp] theorem State.foreign_trecKnown (d : Dev) (f : Field) (v : Val) (s : State) : (s.foreign d f v).trecKnown = s.trecKnown := rfl
@[simp] theorem State.foreign_configured (d : Dev) (f : Field) (v : Val) (s : State) : (s.foreign d f v).configured = s.configured := rfl
@[simp] theorem State.foreign_held (d : Dev) (f : Field) (v : Val) (s : State) : (s.foreign d f v).held = s.held := rfl
@[simp] theorem State.foreign_rtcState (d : Dev) (f : Field) (v : Val) (s : State) : (s.foreign d f v).rtcState = s.rtcState := rfl
@[simp] theorem State.foreign_tr (d : Dev) (f : Field) (v : Val) (s : State) : (s.foreign d f v).tr = s.tr := rfl
@[simp] theorem State.foreign_ri (d : Dev) (f : Field) (v : Val) (s : State) : (s.foreign d f v).ri = Memory.set s.ri (RiName.code (.field d f)) v := rfl
@[simp] theorem State.foreign_env (d : Dev) (f : Field) (v : Val) (s : State) : (s.foreign d f v).env = s.env := rfl
@[simp] theorem State.foreign_host (d : Dev) (f : Field) (v : Val) (s : State) : (s.foreign d f v).host = s.host := rfl
@[simp] theorem State.foreign_seen (d : Dev) (f : Field) (v : Val) (s : State) : (s.foreign d f v).seen = s.seen := rfl
@[simp] theorem State.foreign_draws (d : Dev) (f : Field) (v : Val) (s : State) : (s.foreign d f v).draws = s.draws := rfl

/-! ### `State.takeTime` -/

@[simp] theorem State.takeTime_cfg (s : State) : (s.takeTime).cfg = s.cfg := rfl
@[simp] theorem State.takeTime_seq (s : State) : (s.takeTime).seq = s.seq := rfl
@[simp] theorem State.takeTime_lat (s : State) : (s.takeTime).lat = s.lat := rfl
@[simp] theorem State.takeTime_rem (s : State) : (s.takeTime).rem = s.rem := rfl
@[simp] theorem State.takeTime_polls (s : State) : (s.takeTime).polls = s.polls := rfl
@[simp] theorem State.takeTime_err (s : State) : (s.takeTime).err = s.err := rfl
@[simp] theorem State.takeTime_buf (s : State) : (s.takeTime).buf = s.buf := rfl
@[simp] theorem State.takeTime_configured (s : State) : (s.takeTime).configured = s.configured := rfl
@[simp] theorem State.takeTime_held (s : State) : (s.takeTime).held = s.held := rfl
@[simp] theorem State.takeTime_rtcState (s : State) : (s.takeTime).rtcState = s.rtcState := rfl
@[simp] theorem State.takeTime_tr (s : State) : (s.takeTime).tr = s.tr ++ [.rdR .rtc .tr (.word (s.regWord .tr))] := rfl
@[simp] theorem State.takeTime_ri (s : State) : (s.takeTime).ri = Memory.set s.ri (RiName.code (.reg .rtc .tr)) (.word (s.regWord .tr)) := rfl
@[simp] theorem State.takeTime_env (s : State) : (s.takeTime).env = (s.askReg .tr).env := rfl
@[simp] theorem State.takeTime_host (s : State) : (s.takeTime).host = s.host := rfl
@[simp] theorem State.takeTime_seen (s : State) : (s.takeTime).seen = s.seen := rfl
@[simp] theorem State.takeTime_draws (s : State) : (s.takeTime).draws = if (s.askReg .tr).drawn then s.draws + 1 else s.draws := rfl

/-! ### the state after `State.sampleHour` -/

@[simp] theorem State.sampleHour_cfg (s : State) : (s.sampleHour.2).cfg = s.cfg := by simp [State.sampleHour]
@[simp] theorem State.sampleHour_seq (s : State) : (s.sampleHour.2).seq = s.seq := by simp [State.sampleHour]
@[simp] theorem State.sampleHour_lat (s : State) : (s.sampleHour.2).lat = s.lat := by simp [State.sampleHour]
@[simp] theorem State.sampleHour_rem (s : State) : (s.sampleHour.2).rem = s.rem := by simp [State.sampleHour]
@[simp] theorem State.sampleHour_polls (s : State) : (s.sampleHour.2).polls = s.polls := by simp [State.sampleHour]
@[simp] theorem State.sampleHour_err (s : State) : (s.sampleHour.2).err = s.err := by simp [State.sampleHour]
@[simp] theorem State.sampleHour_buf (s : State) : (s.sampleHour.2).buf = s.buf := by simp [State.sampleHour]
@[simp] theorem State.sampleHour_trec (s : State) : (s.sampleHour.2).trec = s.trec := by simp [State.sampleHour]
@[simp] theorem State.sampleHour_trecKnown (s : State) : (s.sampleHour.2).trecKnown = s.trecKnown := by simp [State.sampleHour]
@[simp] theorem State.sampleHour_configured (s : State) : (s.sampleHour.2).configured = s.configured := by simp [State.sampleHour]
@[simp] theorem State.sampleHour_held (s : State) : (s.sampleHour.2).held = s.held := by simp [State.sampleHour]
@[simp] theorem State.sampleHour_rtcState (s : State) : (s.sampleHour.2).rtcState = s.rtcState := by simp [State.sampleHour]
@[simp] theorem State.sampleHour_tr (s : State) : (s.sampleHour.2).tr = s.tr := by simp [State.sampleHour]
@[simp] theorem State.sampleHour_ri (s : State) : (s.sampleHour.2).ri = s.ri := by simp [State.sampleHour]
@[simp] theorem State.sampleHour_env (s : State) : (s.sampleHour.2).env = s.env := by simp [State.sampleHour]
@[simp] theorem State.sampleHour_host (s : State) : (s.sampleHour.2).host = s.host := by simp [State.sampleHour]
@[simp] theorem State.sampleHour_seen (s : State) : (s.sampleHour.2).seen = s.seen := by simp [State.sampleHour]

/-! ### the state after `State.sampleMin` -/

@[simp] theorem State.sampleMin_cfg (s : State) : (s.sampleMin.2).cfg = s.cfg := by simp [State.sampleMin]
@[simp] theorem State.sampleMin_seq (s : State) : (s.sampleMin.2).seq = s.seq := by simp [State.sampleMin]
@[simp] theorem State.sampleMin_lat (s : State) : (s.sampleMin.2).lat = s.lat := by simp [State.sampleMin]
@[simp] theorem State.sampleMin_rem (s : State) : (s.sampleMin.2).rem = s.rem := by simp [State.sampleMin]
@[simp] theorem State.sampleMin_polls (s : State) : (s.sampleMin.2).polls = s.polls := by simp [State.sampleMin]
@[simp] theorem State.sampleMin_err (s : State) : (s.sampleMin.2).err = s.err := by simp [State.sampleMin]
@[simp] theorem State.sampleMin_buf (s : State) : (s.sampleMin.2).buf = s.buf := by simp [State.sampleMin]
@[simp] theorem State.sampleMin_trec (s : State) : (s.sampleMin.2).trec = s.trec := by simp [State.sampleMin]
@[simp] theorem State.sampleMin_trecKnown (s : State) : (s.sampleMin.2).trecKnown = s.trecKnown := by simp [State.sampleMin]
@[simp] theorem State.sampleMin_configured (s : State) : (s.sampleMin.2).configured = s.configured := by simp [State.sampleMin]
@[simp] theorem State.sampleMin_held (s : State) : (s.sampleMin.2).held = s.held := by simp [State.sampleMin]
@[simp] theorem State.sampleMin_rtcState (s : State) : (s.sampleMin.2).rtcState = s.rtcState := by simp [State.sampleMin]
@[simp] theorem State.sampleMin_tr (s : State) : (s.sampleMin.2).tr = s.tr := by simp [State.sampleMin]
@[simp] theorem State.sampleMin_ri (s : State) : (s.sampleMin.2).ri = s.ri := by simp [State.sampleMin]
@[simp] theorem State.sampleMin_env (s : State) : (s.sampleMin.2).env = s.env := by simp [State.sampleMin]
@[simp] theorem State.sampleMin_host (s : State) : (s.sampleMin.2).host = s.host := by simp [State.sampleMin]
@[simp] theorem State.sampleMin_seen (s : State) : (s.sampleMin.2).seen = s.seen := by simp [State.sampleMin]

/-! ### the state after `State.sampleSec` -/

@[simp] theorem State.sampleSec_cfg (s : State) : (s.sampleSec.2).cfg = s.cfg := by simp [State.sampleSec]
@[simp] theorem State.sampleSec_seq (s : State) : (s.sampleSec.2).seq = s.seq := by simp [State.sampleSec]
@[simp] theorem State.sampleSec_lat (s : State) : (s.sampleSec.2).lat = s.lat := by simp [State.sampleSec]
@[simp] theorem State.sampleSec_rem (s : State) : (s.sampleSec.2).rem = s.rem := by simp [State.sampleSec]
@[simp] theorem State.sampleSec_polls (s : State) : (s.sampleSec.2).polls = s.polls := by simp [State.sampleSec]
@[simp] theorem State.sampleSec_err (s : State) : (s.sampleSec.2).err = s.err := by simp [State.sampleSec]
@[simp] theorem State.sampleSec_buf (s : State) : (s.sampleSec.2).buf = s.buf := by simp [State.sampleSec]
@[simp] theorem State.sampleSec_trec (s : State) : (s.sampleSec.2).trec = s.trec := by simp [State.sampleSec]
@[simp] theorem State.sampleSec_trecKnown (s : State) : (s.sampleSec.2).trecKnown = s.trecKnown := by simp [State.sampleSec]
@[simp] theorem State.sampleSec_configured (s : State) : (s.sampleSec.2).configured = s.configured := by simp [State.sampleSec]
@[simp] theorem State.sampleSec_held (s : State) : (s.sampleSec.2).held = s.held := by simp [State.sampleSec]
@[simp] theorem State.sampleSec_rtcState (s : State) : (s.sampleSec.2).rtcState = s.rtcState := by simp [State.sampleSec]
@[simp] theorem State.sampleSec_tr (s : State) : (s.sampleSec.2).tr = s.tr := by simp [State.sampleSec]
@[simp] theorem State.sampleSec_ri (s : State) : (s.sampleSec.2).ri = s.ri := by simp [State.sampleSec]
@[simp] theorem State.sampleSec_env (s : State) : (s.sampleSec.2).env = s.env := by simp [State.sampleSec]
@[simp] theorem State.sampleSec_host (s : State) : (s.sampleSec.2).host = s.host := by simp [State.sampleSec]
@[simp] theorem State.sampleSec_seen (s : State) : (s.sampleSec.2).seen = s.seen := by simp [State.sampleSec]

end Sys2Proof.Machine
end

