-- ==== Sys2Proof/Laws/Ops.lean ====
section
/-! SUPPORT. What each shared operation can do, said once: the poll, acceptance, the shape of every meaning, and one micro-step of
every command. -/

namespace Sys2Proof.Machine

/-! ### The sequencer -/

theorem State.running_of_run {s : State} {c : Cmd} {k : Nat} (h : s.seq = .run c k) :
    s.running = some (instrOf c s.lat, k) := by simp [State.running, h]

theorem State.running_of_idle {s : State} (h : s.seq = .idle) : s.running = none := by simp [State.running, h]

theorem State.running_none {s : State} : s.running = none ↔ s.seq = .idle := by
  unfold State.running; split <;> simp_all

theorem State.running_some {s : State} {i : Instr} {k : Nat} (h : s.running = some (i, k)) :
    s.seq = .run (cmdOf i) k ∧ instrOf (cmdOf i) s.lat = i := by
  unfold State.running at h
  split at h
  · cases h
  · rename_i c k' hs
    simp only [Option.some.injEq, Prod.mk.injEq] at h
    obtain ⟨rfl, rfl⟩ := h
    simp [hs]

theorem State.busy_iff {s : State} : s.busy = true ↔ s.seq ≠ .idle := by simp [State.busy]

@[simp] theorem State.advance_seq_of {s : State} {c : Cmd} {k : Nat} (h : s.seq = .run c k) :
    s.advance.seq = .run c (k + 1) := by simp [State.advance, h]

@[simp] theorem State.goto_seq_of {s : State} {c : Cmd} {k j : Nat} (h : s.seq = .run c k) :
    (s.goto j).seq = .run c j := by simp [State.goto, h]

/-! ### Bus bits -/

@[simp] theorem busGet_busSet_same (v : Vector Bool 4) (b : BitVec 2) (x : Bool) : busGet (busSet v b x) b = x := by
  simp [busGet, busSet]

theorem busGet_busSet_other (v : Vector Bool 4) (b c : BitVec 2) (x : Bool) (h : c ≠ b) :
    busGet (busSet v b x) c = busGet v c := by
  have : b.toNat ≠ c.toNat := fun e => h (BitVec.eq_of_toNat_eq e.symm)
  simp [busGet, busSet, Vector.getElem_set_ne, this]

theorem busGet_busSet (v : Vector Bool 4) (b c : BitVec 2) (x : Bool) :
    busGet (busSet v b x) c = if c = b then x else busGet v c := by
  split
  · subst_vars; simp
  · exact busGet_busSet_other v b c x (by assumption)

/-- STATUS, bit by bit (10_state R26). -/
theorem State.status_bit (s : State) (k : Nat) :
    s.status.getLsbD k = if k = 0 then s.busy else if k < 4 then s.err.getLsbD (k - 1) else false := by
  have h0 : k < 1 ↔ k = 0 := by omega
  have h1 : k - 1 < 3 ↔ k < 4 ∨ k = 0 := by omega
  simp only [State.status, BitVec.getLsbD_append, BitVec.getLsbD_ofBool, BitVec.getLsbD_zero]
  grind

/-! ### TREC and BUF -/

theorem trecGet_trecSet {α : Type} (t : TimeRec α) (f g : TField) (v : α) :
    trecGet (trecSet t f v) g = if g = f then v else trecGet t g := by
  cases f <;> cases g <;> simp [trecGet, trecSet]

theorem State.readTrec_known {s : State} {f : TField} (h : trecGet s.trecKnown f = true) :
    s.readTrec f = (trecGet s.trec f, s) := by simp [State.readTrec, h]

theorem State.readBuf_known {s : State} {i : Nat} {v : Byte} (h : Memory.get? s.buf i = some v) :
    s.readBuf i = (v, s) := by simp [State.readBuf, h]

/-- An index that exists lies in `off .. off+cnt-1` (20_memory R67). -/
theorem bufIndex_spec {off cnt rem : Byte} {i : Nat} (h : bufIndex off cnt rem = some i) :
    off.toNat ≤ i ∧ i < off.toNat + cnt.toNat ∧ i = off.toNat + (cnt.toNat - rem.toNat) ∧ 1 ≤ rem.toNat ∧
      rem.toNat ≤ cnt.toNat := by
  unfold bufIndex at h
  split at h
  · simp only [Option.some.injEq] at h; omega
  · cases h

theorem bufIndex_lt {off cnt rem : Byte} {i : Nat} (h : bufIndex off cnt rem = some i) : i < Config.bufSize := by
  have := bufIndex_spec h; have := off.isLt; have := cnt.isLt; unfold Config.bufSize; omega

/-! ### The trace -/

@[simp] theorem record_nil (ri : List (Nat × Val)) : record ri [] = ri := rfl

@[simp] theorem record_cons (ri : List (Nat × Val)) (e : Event) (es : List Event) :
    record ri (e :: es) = record (Memory.set ri e.name.code e.val) es := rfl

theorem record_append (ri : List (Nat × Val)) (es fs : List Event) :
    record ri (es ++ fs) = record (record ri es) fs := by simp [record, List.foldl_append]

/-! ### The poll (20_memory R56) -/

/-- The flag has the wanted value: the poll returns. -/
theorem poll_satisfied {d : Dev} {f : Flag} {want : BitVec 1} {fin : State → State} {s : State}
    (h : s.flagBit f = want) : poll d f want fin s = .next (fin ((s.rdF d f).countPoll.clearPolls)) := by
  simp [poll, h]

/-- The count of a poll that has ended is gone, whatever POLL_LIMIT is. -/
@[simp] theorem State.clearPolls_countPoll (s : State) : s.countPoll.clearPolls = s.clearPolls := by
  unfold State.countPoll State.clearPolls; split <;> rfl

/-- Everything one read of a poll can do. -/
theorem poll_cases (d : Dev) (f : Flag) (want : BitVec 1) (fin : State → State) (s : State) :
    (s.flagBit f = want ∧ poll d f want fin s = .next (fin ((s.rdF d f).countPoll.clearPolls))) ∨
    (s.flagBit f ≠ want ∧ s.cfg.pollLimit = some (s.polls + 1) ∧
      poll d f want fin s = .next ((s.rdF d f).countPoll.raise .busTimeout)) ∨
    (s.flagBit f ≠ want ∧ s.cfg.pollLimit ≠ some (s.polls + 1) ∧ poll d f want fin s = .next (s.rdF d f).countPoll) := by
  by_cases h : s.flagBit f = want
  · exact .inl ⟨h, poll_satisfied h⟩
  · right
    unfold poll
    simp only [h, if_false, State.countPoll_cfg, State.rdF_cfg]
    cases hl : s.cfg.pollLimit with
    | none => right; simp [h]
    | some l =>
      have hp : ((s.rdF d f).countPoll).polls = s.polls + 1 := by simp [State.countPoll, hl]
      rw [hp]
      by_cases he : l = s.polls + 1
      · left; simp [h, he]
      · right; simp [h, he]

/-! ### Acceptance (30_encoding R82, 60_exceptions R182, R183) -/

/-- Everything acceptance can do. -/
theorem accept_cases (i : Instr) (gate : State → Option Refusal) (s : State) :
    (i.wf s.cfg.nBus = false ∧ accept i gate s = .next (s.raise .illegalCommand)) ∨
    (i.wf s.cfg.nBus = true ∧ ∃ k, acceptCheck i s = some k ∧ accept i gate s = .next ((s.latch i).raise k)) ∨
    (i.wf s.cfg.nBus = true ∧ acceptCheck i s = none ∧ ∃ r, gate s = some r ∧ accept i gate s = .refused r) ∨
    (i.wf s.cfg.nBus = true ∧ acceptCheck i s = none ∧ gate s = none ∧
      accept i gate s = .next ((s.latch i).begin i)) := by
  unfold accept
  cases hw : i.wf s.cfg.nBus
  · simp
  · cases hc : acceptCheck i s with
    | some k => right; left; simp
    | none =>
      cases hg : gate s with
      | some r => right; right; left; simp
      | none => right; right; right; simp

theorem accept_ok {i : Instr} {gate : State → Option Refusal} {s : State} (hw : i.wf s.cfg.nBus = true)
    (hc : acceptCheck i s = none) (hg : gate s = none) : accept i gate s = .next ((s.latch i).begin i) := by
  simp [accept, hw, hc, hg]

/-! ### The shape of every meaning -/

/-- What the spec refuses of an instruction at acceptance (93 U1, U3, U5). -/
def gateOf : Instr → State → Option Refusal
  | .configure b => configureGate b
  | .start _ => noGate
  | .sendaddr _ _ => noGate
  | .write _ _ _ n => countGate n
  | .wrdata _ _ n => countGate n
  | .read _ _ _ n => countGate n
  | .stop _ => noGate
  | .rtcinit => noGate
  | .rtcset => rtcsetGate
  | .rtcget => noGate

/-- One micro-step of an instruction. -/
def bodyOf : Instr → Nat → State → Result
  | .configure b => configureStep b
  | .start b => startPhase b State.finish
  | .sendaddr b sel => addrPhase b sel State.finish
  | .write b addr off n => writeStep b addr off n
  | .wrdata b off n => dataPhase b off n 0
  | .read b addr off n => readStep b addr off n
  | .stop b => stopStep b
  | .rtcinit => rtcinitStep
  | .rtcset => rtcsetStep
  | .rtcget => rtcgetStep

theorem exec_eq_command (i : Instr) (s : State) : exec i s = command i (gateOf i) (bodyOf i) s := by
  cases i <;> rfl

/-- While idle, `exec` is acceptance. -/
theorem exec_idle {i : Instr} {s : State} (h : s.seq = .idle) : exec i s = accept i (gateOf i) s := by
  rw [exec_eq_command, command, State.running_of_idle h]

/-- While the instruction runs, `exec` is its next micro-step. -/
theorem exec_running {i : Instr} {k : Nat} {s : State} (h : s.running = some (i, k)) : exec i s = bodyOf i k s := by
  rw [exec_eq_command, command, h]; simp

/-- While another instruction runs, there is no meaning (93 U2). -/
theorem exec_other {i j : Instr} {k : Nat} {s : State} (h : s.running = some (j, k)) (hne : j ≠ i) :
    exec i s = .refused .hostWhileBusy := by
  rw [exec_eq_command, command, h]; simp [hne]

/-- Everything `exec` can be. -/
theorem exec_cases (i : Instr) (s : State) :
    (s.seq = .idle ∧ exec i s = accept i (gateOf i) s) ∨
    (∃ k, s.running = some (i, k) ∧ exec i s = bodyOf i k s) ∨
    (∃ j k, s.running = some (j, k) ∧ j ≠ i ∧ exec i s = .refused .hostWhileBusy) := by
  cases h : s.running with
  | none => exact .inl ⟨State.running_none.1 h, exec_idle (State.running_none.1 h)⟩
  | some p =>
    obtain ⟨j, k⟩ := p
    by_cases hj : j = i
    · subst hj; exact .inr (.inl ⟨k, rfl, exec_running h⟩)
    · exact .inr (.inr ⟨j, k, rfl, hj, exec_other h hj⟩)

/-! ### What holds of the next state, if there is one -/

/-- If the answer is a next state, it has the property. -/
def NextHas (r : Result) (p : State → Prop) : Prop := ∀ t, r = .next t → p t

@[simp] theorem nextHas_next (t : State) (p : State → Prop) : NextHas (.next t) p ↔ p t := by simp [NextHas]

@[simp] theorem nextHas_fault (f : Fault) (p : State → Prop) : NextHas (.fault f) p := by simp [NextHas]

@[simp] theorem nextHas_refused (r : Refusal) (p : State → Prop) : NextHas (.refused r) p := by simp [NextHas]

/-- A property of everything one read of a poll can lead to. -/
theorem nextHas_poll {d : Dev} {f : Flag} {want : BitVec 1} {fin : State → State} {s : State} {p : State → Prop}
    (h1 : s.flagBit f = want → p (fin (s.rdF d f).countPoll.clearPolls))
    (h2 : s.flagBit f ≠ want → s.cfg.pollLimit = some (s.polls + 1) → p ((s.rdF d f).countPoll.raise .busTimeout))
    (h3 : s.flagBit f ≠ want → s.cfg.pollLimit ≠ some (s.polls + 1) → p (s.rdF d f).countPoll) :
    NextHas (poll d f want fin s) p := by
  rcases poll_cases d f want fin s with ⟨h, e⟩ | ⟨h, h', e⟩ | ⟨h, h', e⟩ <;> rw [e, nextHas_next]
  · exact h1 h
  · exact h2 h h'
  · exact h3 h h'

/-- A property of everything acceptance can lead to. -/
theorem nextHas_accept {i : Instr} {gate : State → Option Refusal} {s : State} {p : State → Prop}
    (h1 : i.wf s.cfg.nBus = false → p (s.raise .illegalCommand))
    (h2 : ∀ k, i.wf s.cfg.nBus = true → acceptCheck i s = some k → p ((s.latch i).raise k))
    (h3 : i.wf s.cfg.nBus = true → acceptCheck i s = none → gate s = none → p ((s.latch i).begin i)) :
    NextHas (accept i gate s) p := by
  rcases accept_cases i gate s with ⟨h, e⟩ | ⟨h, k, h', e⟩ | ⟨h, h', r, h'', e⟩ | ⟨h, h', h'', e⟩ <;> rw [e] <;> simp
  · exact h1 h
  · exact h2 k h h'
  · exact h3 h h' h''

/-- A property of everything `exec` can lead to: at acceptance, and at every micro-step. -/
theorem nextHas_exec {i : Instr} {s : State} {p : State → Prop}
    (h1 : s.seq = .idle → NextHas (accept i (gateOf i) s) p)
    (h2 : ∀ k, s.seq = .run (cmdOf i) k → instrOf (cmdOf i) s.lat = i → NextHas (bodyOf i k s) p) :
    NextHas (exec i s) p := by
  rcases exec_cases i s with ⟨h, e⟩ | ⟨k, h, e⟩ | ⟨j, k, -, -, e⟩ <;> rw [e]
  · exact h1 h
  · exact h2 k (State.running_some h).1 (State.running_some h).2
  · simp

/-! ### The polls, the data phase, and several micro-steps in a row -/

/-- Where `pollAt` names a poll, the micro-step is that poll. -/
theorem pollAt_body {i : Instr} {k : Nat} {d : Dev} {f : Flag} {want : BitVec 1} (h : pollAt i k = some (d, f, want)) :
    ∃ fin, ∀ s, bodyOf i k s = poll d f want fin s := by
  cases i with
  | read b addr off n =>
    simp only [pollAt] at h
    by_cases h1 : k = 1
    · subst h1
      simp only [if_true, Option.some.injEq, Prod.mk.injEq] at h
      obtain ⟨rfl, rfl, rfl⟩ := h
      refine ⟨State.advance, fun s => ?_⟩
      by_cases hn : n = 1#8
      · simp [bodyOf, readStep, hn, readOne]
      · simp [bodyOf, readStep, hn, readManyIndex, readMany, addrPhase]
    · by_cases hn : n = 1#8
      · rw [if_neg h1, if_pos (by simpa using hn)] at h
        split at h <;> simp only [Option.some.injEq, Prod.mk.injEq, reduceCtorEq] at h
        obtain ⟨rfl, rfl, rfl⟩ := h
        exact ⟨State.advance, fun s => by simp_all [bodyOf, readStep, readOne]⟩
      · rw [if_neg h1, if_neg (by simpa using hn)] at h
        split at h <;> simp only [Option.some.injEq, Prod.mk.injEq, reduceCtorEq] at h
        obtain ⟨rfl, rfl, rfl⟩ := h
        rename_i hk
        refine ⟨State.advance, fun s => ?_⟩
        rcases hk with rfl | rfl | rfl <;> simp [bodyOf, readStep, hn, readManyIndex, readMany]
  | _ =>
    simp only [pollAt, reduceCtorEq] at h
    repeat' split at h
    all_goals simp only [Option.some.injEq, Prod.mk.injEq, reduceCtorEq] at h
    all_goals
      obtain ⟨rfl, rfl, rfl⟩ := h
      rename_i hk
      subst hk
      first
        | exact ⟨State.advance, fun s => rfl⟩
        | exact ⟨State.finish, fun s => rfl⟩
        | exact ⟨fun t => (t.setHeld _ true).finish, fun s => rfl⟩
        | exact ⟨fun t => (t.setHeld _ true).advance, fun s => rfl⟩
        | exact ⟨fun t => (t.setRtc .initMode).advance, fun s => rfl⟩
        | exact ⟨fun t => (t.setRtc .writeUnlocked).advance, fun s => rfl⟩

/-- W3 with `rem` in range sends some byte, the one in the cell if it has been written. -/
theorem sendByte_spec {b : BitVec 2} {off n : Byte} {s : State} (h1 : 1 ≤ s.rem.toNat) (h2 : s.rem.toNat ≤ n.toNat) :
    ∃ (v : Byte) (dr : Nat),
      sendByte b off n s = .next (({ s with draws := dr } : State).wrR (.i2c b) .dr (.byte v)).advance ∧
      ∀ x, Memory.get? s.buf (off.toNat + n.toNat - s.rem.toNat) = some x → v = x := by
  simp only [sendByte, bufIndex, h1, h2, and_self, if_true]
  cases h : Memory.get? s.buf (off.toNat + n.toNat - s.rem.toNat) with
  | some x => exact ⟨x, s.draws, by simp [State.readBuf, h], by simp⟩
  | none => exact ⟨Config.freeByte s.draws, s.draws + 1, by simp [State.readBuf, h], by simp⟩

@[simp] theorem runExec_zero (i : Instr) (s : State) : runExec i 0 s = .next s := rfl

theorem runExec_next {i : Instr} {n : Nat} {s t : State} (h : exec i s = .next t) :
    runExec i (n + 1) s = runExec i n t := by simp [runExec, h]

/-- Runs compose. -/
theorem runExec_add {i : Instr} {m n : Nat} {s t : State} (h : runExec i m s = .next t) :
    runExec i (m + n) s = runExec i n t := by
  induction m generalizing s with
  | zero => simp only [runExec_zero, Host.Outcome.next.injEq] at h; rw [Nat.zero_add, h]
  | succ m ih =>
    rw [Nat.succ_add]
    cases he : exec i s with
    | next u => rw [runExec_next he] at h ⊢; exact ih h
    | fault r => simp [runExec, he] at h
    | refused r => simp [runExec, he] at h

/-! ### One whole poll -/

/-- A flag read while the environment has an answer: that answer, one event, nothing else. -/
theorem State.rdF_oracle {s : State} {d : Dev} {f : Flag} {a : Word} {rest : List Word} (h : s.env = .oracle (a :: rest)) :
    s.flagBit f = a.setWidth 1 ∧
      s.rdF d f = { s with
        tr := s.tr ++ [.rdF d f (a.setWidth 1)], ri := record s.ri [.rdF d f (a.setWidth 1)], env := .oracle rest } := by
  simp [State.flagBit, State.rdF, State.answered, State.emit, State.askFlag, Env.answerFlag, h]

theorem not_eq_of_ne {x y : BitVec 1} : x ≠ y → x = ~~~y := by revert x y; decide

/-- One execution of `poll`, all its reads (20_memory R56): where micro-step `k` is a poll and the next answers satisfy it before
POLL_LIMIT is reached, it ends with the events of its reads and goes on with `fin`. -/
theorem runExec_wait {i : Instr} {k : Nat} {d : Dev} {f : Flag} {want : BitVec 1} {fin : State → State}
    (hb : ∀ s, bodyOf i k s = poll d f want fin s) (fails : List Word) {last : Word} {rest : List Word} {s : State}
    (hr : s.running = some (i, k)) (hf : ∀ a ∈ fails, a.setWidth 1 ≠ want) (hl : last.setWidth 1 = want)
    (hp : ∀ l, s.cfg.pollLimit = some l → s.polls + fails.length < l) (he : s.env = .oracle (fails ++ last :: rest)) :
    runExec i (fails.length + 1) s = .next (fin { s with
      tr := s.tr ++ (Wait.mk fails last).events d f want, ri := record s.ri ((Wait.mk fails last).events d f want)
      env := .oracle rest, polls := 0 }) := by
  induction fails generalizing s with
  | nil =>
    obtain ⟨h1, h2⟩ := State.rdF_oracle (d := d) (f := f) he
    rw [hl] at h1 h2
    rw [runExec_next (exec_running hr |>.trans (hb s) |>.trans (poll_satisfied h1)), List.length_nil, runExec_zero]
    simp [h2, State.clearPolls, Wait.events]
  | cons a as ih =>
    obtain ⟨h1, h2⟩ := State.rdF_oracle (d := d) (f := f) (rest := as ++ last :: rest) he
    have ha := hf a (by simp)
    have hw : s.flagBit f ≠ want := h1 ▸ ha
    have hn : s.cfg.pollLimit ≠ some (s.polls + 1) := fun hl => by have := hp _ hl; simp at this
    have hx : exec i s = .next (s.rdF d f).countPoll := by
      rcases poll_cases d f want fin s with ⟨h, -⟩ | ⟨-, h, -⟩ | ⟨-, -, h⟩
      · exact absurd h hw
      · exact absurd h hn
      · exact (exec_running hr).trans ((hb s).trans h)
    have hr' : (s.rdF d f).countPoll.running = some (i, k) := by simpa [State.running] using hr
    have hpolls : ∀ l, (s.rdF d f).countPoll.cfg.pollLimit = some l → (s.rdF d f).countPoll.polls + as.length < l := by
      intro l h
      simp only [State.countPoll_cfg, State.rdF_cfg] at h
      have := hp l h
      simp only [List.length_cons] at this
      simp [State.countPoll, h]
      omega
    rw [List.length_cons, runExec_next hx, ih hr' (fun y hy => hf y (by simp [hy])) hpolls (by simp [h2, State.countPoll]; split <;> rfl)]
    rw [not_eq_of_ne ha] at h2
    simp [h2, State.countPoll, Wait.events, List.replicate_succ]
    split <;> simp

/-! ### Steps of the machine in a row -/

@[simp] theorem runStep_zero (s : State) : runStep 0 s = .next s := rfl

theorem runStep_next {n : Nat} {s t : State} (h : step s = .next t) : runStep (n + 1) s = runStep n t := by simp [runStep, h]

theorem runStep_add {m n : Nat} {s t : State} (h : runStep m s = .next t) : runStep (m + n) s = runStep n t := by
  induction m generalizing s with
  | zero => simp only [runStep_zero, Host.Outcome.next.injEq] at h; rw [Nat.zero_add, h]
  | succ m ih =>
    rw [Nat.succ_add]
    cases he : step s with
    | next u => rw [runStep_next he] at h ⊢; exact ih h
    | fault r => simp [runStep, he] at h
    | refused r => simp [runStep, he] at h

/-! ### Readings of the trace, event by event -/

theorem heldByTrace_append (b : BitVec 2) (tr : List Event) (e : Event) :
    heldByTrace b (tr ++ [e]) = heldAfter b (heldByTrace b tr) e := by simp [heldByTrace]

theorem txFrom_append (b : BitVec 2) (held : Bool) (es fs : List Event) :
    txFrom b held (es ++ fs) = txFrom b held es ++ txFrom b (es.foldl (heldAfter b) held) fs := by
  induction es generalizing held with
  | nil => rfl
  | cons e es ih => simp [txFrom, ih]

/-- The TX projection grows by the items of the new events, from where the trace left the bus. -/
theorem txProjection_append (b : BitVec 2) (es fs : List Event) :
    txProjection b (es ++ fs) = txProjection b es ++ txFrom b (heldByTrace b es) fs := txFrom_append b false es fs

theorem rxProjection_append (b : BitVec 2) (es fs : List Event) :
    rxProjection b (es ++ fs) = rxProjection b es ++ rxProjection b fs := by
  induction es with
  | nil => rfl
  | cons e es ih => cases e <;> simp only [List.cons_append, rxProjection, ih]; split <;> rfl

theorem rtcWindow_append (tr : List Event) (e : Event) : rtcWindow (tr ++ [e]) = (rtcWindow tr).after e := by
  simp [rtcWindow]

end Sys2Proof.Machine
end

