-- ==== Sys2Proof/Laws/PerInstr.lean ====
section
/-! SUPPORT. The statement made of every instruction, constructor by constructor: its word has its opcode and `z = 0`, the other
fields of the word are the operands as they are latched (10_state R24, 30_encoding R71, R72, R74), and the latched operands give
the instruction back. -/

namespace Sys2Proof.Laws.Fields

open Sys2Proof Sys2Proof.Machine

/-- The fields of the word of `i` are its opcode, zero, and its latched operands. -/
def Statement (i : Instr) : Prop :=
  fieldOp (encode i) = i.opcode ∧ fieldZ (encode i) = 0 ∧
    ({ b := fieldB (encode i), cnt := fieldCnt (encode i), off := fieldOff (encode i), arg := fieldArg (encode i) } : Sys2Proof.Machine.Lat) =
      latOf i ∧
    instrOf (cmdOf i) (latOf i) = i

theorem configure (b : BitVec 2) : Statement (.configure b) := by
  simp [Statement, encode, Instr.opcode, latOf, instrOf, cmdOf]

theorem start (b : BitVec 2) : Statement (.start b) := by
  simp [Statement, encode, Instr.opcode, latOf, instrOf, cmdOf]

theorem sendaddr (b : BitVec 2) (sel : Byte) : Statement (.sendaddr b sel) := by
  simp [Statement, encode, Instr.opcode, latOf, instrOf, cmdOf]

theorem write (b : BitVec 2) (addr off n : Byte) : Statement (.write b addr off n) := by
  simp [Statement, encode, Instr.opcode, latOf, instrOf, cmdOf]

theorem wrdata (b : BitVec 2) (off n : Byte) : Statement (.wrdata b off n) := by
  simp [Statement, encode, Instr.opcode, latOf, instrOf, cmdOf]

theorem read (b : BitVec 2) (addr off n : Byte) : Statement (.read b addr off n) := by
  simp [Statement, encode, Instr.opcode, latOf, instrOf, cmdOf]

theorem stop (b : BitVec 2) : Statement (.stop b) := by
  simp [Statement, encode, Instr.opcode, latOf, instrOf, cmdOf]

theorem rtcinit : Statement .rtcinit := by
  simp [Statement, encode, Instr.opcode, latOf, instrOf, cmdOf]

theorem rtcset : Statement .rtcset := by
  simp [Statement, encode, Instr.opcode, latOf, instrOf, cmdOf]

theorem rtcget : Statement .rtcget := by
  simp [Statement, encode, Instr.opcode, latOf, instrOf, cmdOf]

end Sys2Proof.Laws.Fields
end

