-- ==== Sys2Proof/Laws/Step.lean ====
section
/-! SUPPORT. What one step can lead to, said once: the sequencer's turn, the host's turn, and each host action. -/

namespace Sys2Proof.Machine

/-! ### The host's turn -/

@[simp] theorem HostItem.waited_act (it : HostItem) : it.waited.act = it.act := by
  unfold HostItem.waited; split <;> rfl

@[simp] theorem HostItem.waited_cont (it : HostItem) : it.waited.cont = it.cont := by
  unfold HostItem.waited; split <;> rfl

@[simp] theorem HostItem.waited_whenIdle (a : HostAction) (c : Bool) :
    HostItem.waited { act := a, timing := .whenIdle, cont := c } = { act := a, timing := .whenIdle, cont := c } := rfl

@[simp] theorem HostItem.waited_after (a : HostAction) (n : Nat) (c : Bool) :
    HostItem.waited { act := a, timing := .after (n + 1), cont := c } = { act := a, timing := .after n, cont := c } := rfl

theorem HostItem.due_iff {it : HostItem} {s : State} : it.due s = true ↔ s.seq = .idle ∨ it.timing = .after 0 := by
  simp [HostItem.due, State.busy]

/-- While idle, or when the action's moment has come, a step is the host's turn. -/
theorem step_host {s : State} {it : HostItem} {rest : List HostItem} (h : s.host = it :: rest)
    (hs : s.seq = .idle ∨ it.timing = .after 0) : step s = hostTurn it { s with host := rest } := by
  unfold step
  rw [h]
  simp [HostItem.due_iff.2 hs]

/-- While a command runs and the host waits, a step is the sequencer's turn, and the host has waited one micro-step. -/
theorem step_waits {s : State} {it : HostItem} {rest : List HostItem} {i : Instr} {k : Nat} (h : s.host = it :: rest)
    (hr : s.running = some (i, k)) (ht : it.timing ≠ .after 0) : step s = exec i { s with host := it.waited :: rest } := by
  have hs : s.seq ≠ .idle := by rw [(State.running_some hr).1]; simp
  have hd : it.due s ≠ true := fun hd => (HostItem.due_iff.1 hd).elim hs ht
  have hr' : ({ s with host := it.waited :: rest } : State).running = some (i, k) := hr
  unfold step
  rw [h]
  simp [hd, sequencerTurn, hr']

/-- While a command runs and the host has nothing to do, a step is the sequencer's turn. -/
theorem step_alone {s : State} {i : Instr} {k : Nat} (h : s.host = []) (hr : s.running = some (i, k)) : step s = exec i s := by
  unfold step
  rw [h]
  simp [sequencerTurn, hr]

/-- A property of everything one step can lead to. -/
theorem nextHas_step {s : State} {p : State → Prop} (hidle : s.seq = .idle → s.host = [] → p s)
    (hrun : ∀ i k host, s.running = some (i, k) → NextHas (exec i { s with host := host }) p)
    (hhost : ∀ it rest, s.host = it :: rest → (s.seq = .idle ∨ it.timing = .after 0) →
      NextHas (hostTurn it { s with host := rest }) p) :
    NextHas (step s) p := by
  cases h : s.host with
  | nil =>
    cases hr : s.running with
    | none =>
      have hi := State.running_none.1 hr
      simpa [step, h, sequencerTurn, hr] using hidle hi h
    | some q => rw [step_alone h hr]; simpa [← h] using hrun q.1 q.2 s.host hr
  | cons it rest =>
    by_cases hd : s.seq = .idle ∨ it.timing = .after 0
    · rw [step_host h hd]; exact hhost it rest h hd
    · cases hr : s.running with
      | none => exact absurd (.inl (State.running_none.1 hr)) hd
      | some q => rw [step_waits h hr (fun e => hd (.inr e))]; exact hrun q.1 q.2 _ hr

/-- A property of everything one host action can lead to; `s` no longer lists the action. -/
theorem nextHas_hostTurn {it : HostItem} {s : State} {p : State → Prop}
    (hdrop : s.seq = .idle → p { s with host := s.host.dropWhile (fun x => x.cont) })
    (hexec : ∀ i, s.seq = .idle → i.wf s.cfg.nBus = true → NextHas (exec i s) p)
    (hillegal : s.seq = .idle → p (s.raise .illegalCommand))
    (hbufWrite : ∀ (i : BitVec 9) v, s.seq = .idle → p (s.writeBuf i.toNat v))
    (hbufRead : ∀ (i : BitVec 9) v, s.seq = .idle → p ((s.readBuf i.toNat).2.see (.buf i) v))
    (htrecWrite : ∀ f v, s.seq = .idle → p (s.writeTrec f v))
    (htrecRead : ∀ f v, s.seq = .idle → p ((s.readTrec f).2.see (.trec f) v))
    (hstatus : p (s.see .status s.status))
    (hreset : p s.blockReset)
    (hforeign : ∀ d f v, s.seq = .idle → p (s.foreign d f v))
    (hexpand : ∀ items, s.seq = .idle → p { s with host := items ++ s.host }) :
    NextHas (hostTurn it s) p := by
  have hw : ∀ r : Result, (s.seq = .idle → NextHas r p) → NextHas (whenIdle s r) p := by
    intro r h
    unfold whenIdle
    by_cases hb : s.seq = .idle
    · simpa [State.busy, hb] using h hb
    · have : s.busy = true := State.busy_iff.2 hb
      simp [this]
  unfold hostTurn
  split
  · rename_i he
    have : s.seq = .idle := by
      simp only [expansionEnds, Bool.and_eq_true, Bool.not_eq_true'] at he
      simpa [State.busy] using he.1.2
    simpa using hdrop this
  · unfold hostAct
    split
    · refine hw _ fun h => ?_
      unfold writeCmd
      split
      · rename_i i hd
        refine hexec i h ?_
        unfold decode at hd
        simp only at hd
        split at hd
        · cases hd
        · split at hd <;> first
            | exact (decodeChecked_ok.1 hd).2.2 ▸ (decodeChecked_ok.1 hd).2.1
            | cases hd
      · simpa using hillegal h
    · exact hw _ fun h => by simpa using hbufWrite _ _ h
    · exact hw _ fun h => by simpa using hbufRead _ _ h
    · exact hw _ fun h => by simpa using htrecWrite _ _ h
    · exact hw _ fun h => by simpa using htrecRead _ _ h
    · simpa using hstatus
    · simpa using hreset
    · split
      · simp
      · rename_i hb
        have : s.seq = .idle := by simpa [State.busy] using hb
        simpa using hforeign _ _ _ this
    · refine hw _ fun h => ?_
      unfold expand
      split
      · simpa using hexpand _ h
      · simp
    · refine hw _ fun h => ?_
      unfold expand
      split
      · simpa using hexpand _ h
      · simp

/-- A host turn that does not end an expansion is its action. -/
theorem hostTurn_act {it : HostItem} {s : State} (h : it.cont = false) : hostTurn it s = hostAct it.act s := by
  simp [hostTurn, expansionEnds, h]

end Sys2Proof.Machine
end

