-- ==== Sys2Proof/Tests/Slice0.lean ====
section
/-! SUPPORT. The model's own tests. The words are written out bit by bit from 30_encoding R71 to R74 (the bit strings of
opcode_table.json), the illegal words are B8 and B9 of 95_test_vectors.md, the BCD values B30 to B47, the micro-steps the rules of
40_i2c_master and 41_rtc_sequencer. The theorems test_witness_… show states and operands that meet the hypotheses of a statement of
Certificates/Slice0/Obligations.lean. -/

namespace Sys2Proof.Tests

open Sys2Proof Sys2Proof.Machine

/-! ### States to test on -/

/-- A configuration of numbers: two buses, the reference behaviour. -/
def cfg : Config where
  nBus := 2
  pollLimit := none
  checked := false
  rdAddrAll := true
  eeAddrBeforeRead := false
  freqVal := 8
  ccrVal := 40
  triseVal := 9
  afVal := 2
  speedVal := 1
  predivSVal := 255
  predivAVal := 127
  lockSentinel := 0xFF
  datePlaceholder := 0
  trLayout := TrLayout.default
  regMap := []

/-- Idle, with these answers to come. -/
def idle (answers : List Word) : State := { State.reset with cfg := cfg, env := .oracle answers }

/-- `i` at its micro-step `k`, with these answers to come. -/
def at' (i : Instr) (k : Nat) (answers : List Word) : State :=
  { idle answers with seq := .run (cmdOf i) k, lat := latOf i }

/-- The same with `rem`. -/
def atRem (i : Instr) (k : Nat) (rem : Byte) (answers : List Word) : State := { at' i k answers with rem := rem }

/-- The next state, if the answer is one. -/
def nextOf : Result → Option State
  | .next t => some t
  | .fault _ => none
  | .refused _ => none

/-- The trace and the position of the next state. -/
def seen (r : Result) : Option (List Event × Seq) := (nextOf r).map (fun t => (t.tr, t.seq))

/-- The host's one action still to come, and when it is taken. -/
def asks (s : State) (timing : HostTiming) (a : HostAction) : State :=
  { s with host := [{ act := a, timing := timing, cont := false }] }

/-! ### Well-formedness: an ill-formed term for each check -/

theorem test_wf_bus : (Instr.start 2).wf 2 = false ∧ (Instr.start 1).wf 2 = true ∧ (Instr.start 3).wf 4 = true := by decide
theorem test_wf_bus_all :
    (∀ i ∈ [Instr.configure 2, .start 2, .sendaddr 2 0, .write 2 0 0 1, .wrdata 2 0 1, .read 2 0 0 1, .stop 2], i.wf 2 = false) ∧
      ∀ i ∈ [Instr.rtcinit, .rtcset, .rtcget], i.wf 0 = true := by decide
theorem test_wf_config : cfg.wf = true := by decide
theorem test_wf_no_bus : ({ cfg with nBus := 0 } : Config).wf = false := by decide
theorem test_wf_five_buses : ({ cfg with nBus := 5 } : Config).wf = false := by decide
theorem test_wf_poll_limit_zero : ({ cfg with pollLimit := some 0 } : Config).wf = false := by decide
theorem test_wf_sentinel_is_key1 : ({ cfg with lockSentinel := 0xCA } : Config).wf = false := by decide
theorem test_wf_sentinel_is_key2 : ({ cfg with lockSentinel := 0x53 } : Config).wf = false := by decide
theorem test_wf_layout_overlaps : ({ TrLayout.default with su := 1 } : TrLayout).wf = false := by decide
theorem test_wf_layout_outside : ({ TrLayout.default with ht := 29 } : TrLayout).wf = false := by decide

/-! ### Decoding (30_encoding R71 to R75): op, b, z, cnt, off, arg -/

theorem test_decode_configure : decode 4 0b0001_10_00_00000000_00000000_00000000 = .ok (.configure 2) := by decide
theorem test_decode_start : decode 4 0b0010_11_00_00000000_00000000_00000000 = .ok (.start 3) := by decide
theorem test_decode_sendaddr : decode 4 0b0011_01_00_00000000_00000000_10100001 = .ok (.sendaddr 1 0xA1) := by decide
theorem test_decode_write : decode 4 0b0100_01_00_00000010_00000100_10100001 = .ok (.write 1 0xA1 4 2) := by decide
theorem test_decode_wrdata : decode 4 0b0101_00_00_00000010_11111111_00000000 = .ok (.wrdata 0 255 2) := by decide
theorem test_decode_read : decode 4 0b0110_00_00_00000010_00010000_01010001 = .ok (.read 0 0x51 16 2) := by decide
theorem test_decode_stop : decode 4 0b0111_01_00_00000000_00000000_00000000 = .ok (.stop 1) := by decide
theorem test_decode_rtcinit : decode 4 0b1000_00_00_00000000_00000000_00000000 = .ok .rtcinit := by decide
theorem test_decode_rtcset : decode 4 0b1001_00_00_00000000_00000000_00000000 = .ok .rtcset := by decide
theorem test_decode_rtcget : decode 4 0b1010_00_00_00000000_00000000_00000000 = .ok .rtcget := by decide

/-- B8: each is illegal; the words beside them are not. -/
theorem test_decode_illegal :
    [0x00000000, 0xFFFFFFFF, 0xB0000000, 0x21000000, 0x20000001, 0x30010000, 0x50020001, 0x84000000, 0x90000100].all
      (fun w => (decodeTableWord 32 w).isNone) = true := by rfl
theorem test_decode_beside_illegal :
    [0x20000000, 0x300000A0, 0x50020000, 0x80000000, 0xA0000000].all (fun w => (decodeTableWord 32 w).isSome) = true := by rfl

/-- B9. -/
theorem test_decode_bus : decode 1 0x2C000000 = .error .busOutOfRange ∧ decode 4 0x2C000000 = .ok (.start 3) := by decide

/-- R73: the select byte of B11 and of B20, and the 7-bit address. -/
theorem test_select_byte : selWrite 0xA1 = 0xA0 ∧ selRead 0xA0 = 0xA1 ∧ addr7 0xA1 = 0x50 := by decide

/-- R80. -/
theorem test_asm : (Instr.write 0 0xA0 4 1).asm = "WRITE 0, 160, 4, 1" := by rfl

/-! ### The word reaches the meaning (30_encoding R82; B2, B8) -/

theorem test_present_start :
    (nextOf (step (State.reset.withFetchWord 32 0x20000000))).map (fun t => t.running) = some (some (.start 0, 0)) := by decide
theorem test_present_illegal :
    (nextOf (step (State.reset.withFetchWord 32 0xB0000000))).map (fun t => (t.err, t.seq, t.tr)) = some (4, .idle, []) := by decide

/-! ### One micro-step of each command, from its rule -/

theorem test_configure_pin_mode :
    seen (exec (.configure 1) (at' (.configure 1) 2 [])) = some ([.wrF (.plat 1) .pinMode (.num 2)], .run .configure 3) := by decide
theorem test_configure_done :
    (nextOf (exec (.configure 1) (at' (.configure 1) 11 []))).map (fun t => (t.seq, t.configured.toList)) =
      some (.idle, [false, true, false, false]) := by decide
theorem test_start_sb :
    (nextOf (exec (.start 1) (at' (.start 1) 2 [1]))).map (fun t => (t.tr, t.seq, t.held.toList)) =
      some ([.rdF (.i2c 1) .sb 1], .idle, [false, true, false, false]) := by decide
/-- B16: SB reads 0 and the poll stays. -/
theorem test_start_waits :
    (nextOf (exec (.start 1) (at' (.start 1) 2 [0]))).map (fun t => (t.tr, t.seq, t.held.toList)) =
      some ([.rdF (.i2c 1) .sb 0], .run .start 2, [false, false, false, false]) := by decide
theorem test_sendaddr_as_given :
    seen (exec (.sendaddr 0 0xA1) (at' (.sendaddr 0 0xA1) 0 [])) = some ([.wrR (.i2c 0) .dr (.byte 0xA1)], .run .sendaddr 1) := by decide
theorem test_sendaddr_done :
    seen (exec (.sendaddr 0 0xA1) (at' (.sendaddr 0 0xA1) 3 [7])) = some ([.rdR (.i2c 0) .sr2 (.word 7)], .idle) := by decide
/-- B11. -/
theorem test_write_forces_rw :
    seen (exec (.write 0 0xA1 4 1) (at' (.write 0 0xA1 4 1) 3 [])) = some ([.wrR (.i2c 0) .dr (.byte 0xA0)], .run .write 4) := by decide
/-- B13: the last index used is 509. -/
theorem test_write_last_byte :
    seen (exec (.write 0 0xA0 255 255) { atRem (.write 0 0xA0 255 255) 10 1 [] with buf := [(508, 1), (509, 2)] }) =
      some ([.wrR (.i2c 0) .dr (.byte 2)], .run .write 11) := by decide
theorem test_wrdata_no_more :
    seen (exec (.wrdata 0 2 2) (atRem (.wrdata 0 2 2) 1 0 [])) = some ([], .run .wrdata 5) := by decide
/-- B52: TXE reads 0 at POLL_LIMIT 1, with one byte sent. -/
theorem test_wrdata_times_out :
    (nextOf (exec (.wrdata 0 0 2) { atRem (.wrdata 0 0 2) 2 1 [0] with cfg := { cfg with pollLimit := some 1 } })).map
      (fun t => (t.err, t.seq, t.rem)) = some (1, .idle, 1) := by decide
/-- B20. -/
theorem test_read_one_stores :
    (nextOf (exec (.read 0 0xA0 0 1) (at' (.read 0 0xA0 0 1) 8 [0x15A]))).map (fun t => (t.buf, t.seq, t.tr)) =
      some ([(0, 0x5A)], .idle, [.rdR (.i2c 0) .dr (.byte 0x5A)]) := by decide
/-- B22: three bytes remain, so the bulk loop; B21: two remain, so it is left. -/
theorem test_read_dispatch :
    seen (exec (.read 0 0xA0 0 3) (atRem (.read 0 0xA0 0 3) 5 3 [])) = some ([], .run .read 6) ∧
    seen (exec (.read 0 0x51 16 2) (atRem (.read 0 0x51 16 2) 5 2 [])) = some ([], .run .read 10) := by decide
/-- B19: the same event whether the bus is held or not. -/
theorem test_stop :
    (nextOf (exec (.stop 0) { at' (.stop 0) 0 [] with held := busSet State.reset.held 0 true })).map
      (fun t => (t.tr, t.seq, busGet t.held 0)) = some ([.wrF (.i2c 0) .stop (.bit 1)], .idle, false) ∧
    seen (exec (.stop 0) (at' (.stop 0) 0 [])) = some ([.wrF (.i2c 0) .stop (.bit 1)], .idle) := by decide
theorem test_rtcinit_first :
    (nextOf (exec .rtcinit (at' .rtcinit 0 []))).map (fun t => (t.tr, t.rtcState)) =
      some ([.wrF .rcc .pwrClkEn (.bit 1)], .clockEnabling) := by decide
theorem test_rtcinit_last :
    (nextOf (exec .rtcinit (at' .rtcinit 16 []))).map (fun t => (t.tr, t.rtcState, t.seq)) =
      some ([.wrF .pwr .bkpWrEn (.bit 0)], .running, .idle) := by decide

/-- TREC with the time of B62. -/
def b62 (s : State) : State :=
  { s with trec := { s.trec with hour := 23, min := 59, sec := 58 }, trecKnown := timeKnown s.trecKnown }

/-- B62. -/
theorem test_rtcset_writes_tr :
    seen (exec .rtcset (b62 (at' .rtcset 5 []))) = some ([.wrR .rtc .tr (.word 0x00235958)], .run .rtcset 6) := by decide
/-- B67. -/
theorem test_rtcset_over_99 :
    exec .rtcset { b62 (idle []) with trec := { (b62 (idle [])).trec with sec := 100 } } = .refused .timeFieldOver99 := by rfl
/-- B63. -/
theorem test_rtcget_takes_time :
    (nextOf (exec .rtcget (at' .rtcget 1 [0x00235958]))).map (fun t => (t.trec.hour, t.trec.min, t.trec.sec, t.trecKnown.dom)) =
      some (23, 59, 58, false) := by decide
theorem test_rtcget_last :
    seen (exec .rtcget (at' .rtcget 2 [5])) = some ([.rdR .rtc .date (.word 5)], .idle) := by decide

/-- B53, B55, B57: the checks of R183 and their order (R186). -/
theorem test_checked :
    let s : State := { idle [] with cfg := { cfg with checked := true } }
    (nextOf (exec (.start 0) s)).map (fun t => (t.err, t.tr)) = some (3, []) ∧
    (nextOf (exec (.write 0 0xA0 0 0) s)).map (fun t => (t.err, t.tr)) = some (2, []) ∧
    (nextOf (step (asks s .whenIdle (.cmd 0x21000000)))).map (fun t => t.err) = some 4 := by decide
/-- B13b, B27. -/
theorem test_count_zero :
    exec (.write 0 0xA0 0 0) (idle []) = .refused .byteCountZero ∧ exec (.read 0 0xA0 0 0) (idle []) = .refused .byteCountZero := by
  exact ⟨rfl, rfl⟩

/-! ### BCD and the time word: B30 to B47 -/

theorem test_bcd : [0, 9, 10, 47, 59, 23, 99, 100].map bcdEnc =
    [some 0x00, some 0x09, some 0x10, some 0x47, some 0x59, some 0x23, some 0x99, none] := by decide
theorem test_bcd_dec : bcdDec 3 10 = 40 ∧ bcdDec 7 15 = 85 ∧ bcdDec 15 15 = 165 := by decide
theorem test_pack : packTr TrLayout.default 23 59 58 = some 0x00235958 ∧ packTr TrLayout.default 9 5 7 = some 0x00090507 ∧
    packTr TrLayout.default 24 60 61 = some 0x00246061 := by decide
theorem test_unpack : unpackTr TrLayout.default 0xFF235958 = { hour := 23, min := 59, sec := 58 } ∧
    unpackTr TrLayout.default 0x003A7F00 = { hour := 40, min := 85, sec := 0 } := by decide

/-! ### ENV0 (20_memory R62): with delay 1 a poll reads 0 and then 1; INITF shows the old value once -/

theorem test_env0_poll : ((Env.fresh 1 []).answerFlag .txe 9).val = 0 ∧
    ((((Env.fresh 1 []).answerFlag .txe 9).env).answerFlag .txe 9).val = 1 := by decide
theorem test_env0_initf : (((Env.fresh 1 []).onWrF .init (.bit 1)).answerFlag .initf 9).val = 0 ∧
    (((((Env.fresh 1 []).onWrF .init (.bit 1)).answerFlag .initf 9).env).answerFlag .initf 9).val = 1 := by decide
theorem test_env0_tr : (((Env.fresh 0 []).onWrR .tr (.word 0x00235958)).answerReg .tr 9).val = 0x00235958 := by decide
theorem test_env0_rx : ((Env.fresh 0 [0x5A]).answerReg .dr 9).val = 0x5A ∧ ((Env.fresh 0 []).answerReg .sr1 9).val = 0 := by decide

/-! ### The trace: the TX projection of 95_test_vectors P2 and of a repeated start -/

theorem test_tx_projection :
    txProjection 0 [.wrF (.i2c 0) .start (.bit 1), .rdF (.i2c 0) .sb 1, .wrR (.i2c 0) .dr (.byte 0xA1),
      .wrF (.i2c 0) .start (.bit 1), .wrF (.i2c 0) .stop (.bit 1)] = [.s, .byte 0xA1, .sr, .p] := by decide

/-- Four failed reads and then TXE = 1 are one wait (B13a), but with POLL_LIMIT 2 they are two that timed out and a third. -/
theorem test_waits_txe :
    let es := List.replicate 4 (Event.rdF (.i2c 0) .txe 0) ++ [.rdF (.i2c 0) .txe 1]
    waits none (.i2c 0) .txe 1 es = 1 ∧ waits (some 2) (.i2c 0) .txe 1 es = 3 := by decide
/-- B61: INITF is waited for once as 1 and once as 0, whatever its reads give. -/
theorem test_waits_initf :
    let es : List Event := [.wrF .rtc .init (.bit 1), .rdF .rtc .initf 0, .rdF .rtc .initf 1, .wrF .rtc .init (.bit 0),
      .rdF .rtc .initf 1, .rdF .rtc .initf 0]
    waits none .rtc .initf 1 es = 1 ∧ waits none .rtc .initf 0 es = 1 := by decide

/-! ### The host's timing (60_exceptions R190): B16's START with SB never set, reset in the middle of its poll -/

theorem test_status_while_polling :
    (match runStep 3 (asks (at' (.start 1) 2 [0, 0]) (.after 2) .statusRead) with
      | .next t => decide (t.seen = [{ port := .status, val := 1 }] ∧ t.seq = .run .start 2 ∧ t.tr.length = 2)
      | .fault _ => false
      | .refused _ => false) = true := by decide
theorem test_reset_while_polling :
    (match runStep 3 (asks (at' (.start 1) 2 [0, 0]) (.after 2) .reset) with
      | .next t => decide (t.seq = .idle ∧ t.tr = [] ∧ t.host = [])
      | .fault _ => false
      | .refused _ => false) = true := by decide

/-! ### Witnesses: the hypotheses of the statements can be met, at the ends of their ranges -/

/-- A host item that does not wait. -/
def now (a : HostAction) : HostItem := { act := a, timing := .after 0, cont := false }

/-- Running `i` at micro-step `k`, whatever `i` and `k`. -/
theorem test_at_runs (k : Nat) (answers : List Word) :
    ∀ i ∈ [Instr.configure 1, .start 1, .sendaddr 1 0xA1, .write 1 0xA1 255 255, .wrdata 1 255 255, .read 1 0xA0 255 1,
      .read 1 0xA0 255 255, .stop 1, .rtcinit, .rtcset, .rtcget], (at' i k answers).running = some (i, k) := by
  intro i hi
  fin_cases hi <;> rfl

theorem test_witness_decode_of_encode : ∀ i ∈ [Instr.configure 3, .start 0, .sendaddr 3 255, .write 3 255 255 0, .wrdata 0 0 255,
    .read 3 0 255 255, .stop 3, .rtcinit, .rtcset, .rtcget], i.wf 4 = true := by decide
theorem test_witness_decoded_word : decode 1 0x40FFFFFF = .ok (.write 0 255 255 255) := by decide

/-- One word for each clause of R75 at its ends, and an idle state whose host presents it. -/
theorem test_witness_illegal_word :
    (∀ w ∈ ([0x00000000, 0xB0000000, 0xF0000000, 0x21000000, 0x23000000, 0x10000001, 0x20800000, 0x70000100, 0x30000100, 0x30800000,
      0x50000001, 0x50000080, 0x84000000, 0x90000001, 0xA8000000, 0x18000000, 0x7C000000] : List Word), IllegalWord 2 w) ∧
    (asks (idle []) .whenIdle (.cmd 0xB0000000)).seq = .idle := by
  refine ⟨?_, rfl⟩
  intro w hw
  fin_cases hw <;> simp [IllegalWord]

/-- The four clauses: a presented word, a running command with a host that waits for BUSY = 0, one with micro-steps to let pass,
nothing to do. -/
theorem test_witness_step_runs :
    ((asks (idle []) (.after 3) (.cmd 0xA0000000)).seq = .idle ∧ decode (idle []).cfg.nBus 0xA0000000 = .ok .rtcget) ∧
    ((asks (at' .rtcget 2 []) .whenIdle .reset).running = some (.rtcget, 2) ∧ (at' .rtcget 2 []).host = []) ∧
    (asks (at' .rtcget 2 []) (.after 1) .reset).host = { act := .reset, timing := .after (0 + 1), cont := false } :: [] ∧
    ((idle []).seq = .idle ∧ (idle []).host = []) := by
  decide

/-- A reset at once, of a busy block; after two micro-steps, of a block that is idle; and of a START that hangs at its poll. -/
theorem test_witness_host_reset :
    (asks (atRem (.wrdata 0 0 2) 4 1 []) (.after 0) .reset).host = now .reset :: [] ∧
    (asks (idle []) (.after 2) .reset).seq = .idle ∧
    HangsAt (.start 1) 2 (.i2c 1) .sb 1 [0, 2] (asks (at' (.start 1) 2 [0, 2, 9]) (.after 2) .reset) ∧
    (asks (at' (.start 1) 2 [0, 2, 9]) (.after 2) .reset).env = .oracle ([0, 2] ++ [9]) := by
  refine ⟨by decide, by decide, ⟨by decide, by decide, by decide, by simp⟩, by decide⟩

/-- RTCSET at S5, its trace so far, the time of B62, POLL_LIMIT 2: it meets every invariant. -/
def midRtcset : State :=
  { b62 (at' .rtcset 5 []) with
    cfg := { cfg with pollLimit := some 2 }
    polls := 1
    tr := [.wrF .pwr .bkpWrEn (.bit 1), .wrR .rtc .wpr (.byte 0xCA), .wrR .rtc .wpr (.byte 0x53), .wrF .rtc .init (.bit 1),
      .rdF .rtc .initf 1] }

theorem test_witness_invariant : Inv midRtcset ∧ (nextOf (step midRtcset)).isSome = true := by
  refine ⟨⟨by decide, ⟨by decide, by decide, by decide, by decide, by decide, ?_⟩, by decide, by decide, by decide, by decide, by decide⟩,
    by decide⟩
  rintro l hl
  cases hl
  decide

/-- WRDATA of 255 bytes at W3, the bus held since a START, the first byte still to go. -/
def midWrdata : State :=
  { atRem (.wrdata 1 255 255) 3 255 [] with
    held := busSet State.reset.held 1 true
    tr := [.wrF (.i2c 1) .ack (.bit 1), .wrF (.i2c 1) .start (.bit 1), .rdF (.i2c 1) .sb 1, .rdF (.i2c 1) .txe 1] }

theorem test_witness_invariant_i2c : Inv midWrdata ∧ (nextOf (step midWrdata)).isSome = true := by
  refine ⟨⟨by decide, ⟨by decide, by decide, by decide, by decide, by decide, ?_⟩, by decide, by decide, by decide, by decide, by decide⟩,
    by decide⟩
  rintro l hl
  cases hl

theorem test_witness_window : WindowInv midRtcset ∧ (rtcWindow midRtcset.tr).inInit = true := by
  refine ⟨⟨by decide, ?_⟩, by decide⟩
  show windowAt .rtcset 5 _ = true
  decide

theorem test_witness_configuration : (nextOf (step midWrdata)).map (fun t => t.cfg) = some cfg := by decide
theorem test_witness_one_event : (nextOf (exec (.wrdata 1 255 255) midWrdata)).map (fun t => t.tr.length) = some 5 := by decide

/-- Both clauses: acceptance, and a micro-step. -/
theorem test_witness_reference :
    ((idle []).cfg.pollLimit = none ∧ (idle []).cfg.checked = false ∧ (Instr.start 1).wf (idle []).cfg.nBus = true ∧
      (nextOf (exec (.start 1) { idle [] with err := 4 })).map (fun t => t.err) = some 0) ∧
    (nextOf (exec (.start 1) { at' (.start 1) 2 [0] with err := 4 })).map (fun t => t.err) = some 4 := by decide

/-- Each of the polls, with an answer that is not the wanted one. -/
theorem test_witness_polls :
    ∀ p ∈ ([(.start 1, 2, 0), (.sendaddr 1 0xA1, 1, 0), (.write 1 0xA1 255 255, 2, 0), (.write 1 0xA1 255 255, 4, 0),
      (.write 1 0xA1 255 255, 9, 0), (.write 1 0xA1 255 255, 12, 0), (.wrdata 1 255 255, 2, 0), (.wrdata 1 255 255, 5, 0),
      (.read 1 0xA0 255 1, 1, 0), (.read 1 0xA0 255 1, 7, 0), (.read 1 0xA0 255 255, 1, 0), (.read 1 0xA0 255 255, 6, 0),
      (.read 1 0xA0 255 255, 10, 0), (.read 1 0xA0 255 255, 15, 0), (.rtcinit, 3, 0), (.rtcinit, 9, 0), (.rtcinit, 14, 1),
      (.rtcset, 4, 0), (.rtcset, 8, 1), (.rtcget, 0, 0)] : List (Instr × Nat × Word)),
      (match pollAt p.1 p.2.1 with
        | some (_, f, want) => decide ((at' p.1 p.2.1 [p.2.2]).flagBit f ≠ want)
        | none => false) = true := by decide

/-- POLL_LIMIT 2: the first read that fails goes on, the second is the last. -/
theorem test_witness_poll_limit :
    let s : State := { at' (.start 1) 2 [0] with cfg := { cfg with pollLimit := some 2 } }
    pollAt (.start 1) 2 = some (.i2c 1, .sb, 1) ∧ s.running = some (.start 1, 2) ∧ s.flagBit .sb ≠ 1 ∧ s.polls + 1 ≠ 2 ∧
      ({ s with polls := 1 } : State).polls + 1 = 2 := by decide

/-- The invariant, a finite limit and a running command: the state above, RTCSET among them. -/
theorem test_witness_finite_limit : midRtcset.cfg.pollLimit = some 2 ∧ midRtcset.running = some (.rtcset, 5) := by decide

/-- Every command can be accepted, without and with the checks. -/
theorem test_witness_acceptable :
    (∀ i ∈ [Instr.configure 1, .start 1, .sendaddr 1 255, .write 1 255 255 255, .wrdata 1 255 1, .read 1 0 255 1, .stop 0, .rtcinit,
      .rtcset, .rtcget], Acceptable i (idle [])) ∧
    Acceptable (.start 1) { idle [] with cfg := { cfg with checked := true }, configured := busSet State.reset.configured 1 true } := by
  unfold Acceptable
  decide

theorem test_witness_checked :
    let s : State := { idle [] with cfg := { cfg with checked := true } }
    (Instr.write 1 0 0 0).wf s.cfg.nBus = true ∧ countIsZero (.write 1 0 0 0) = true ∧ countIsZero (.stop 1) = false ∧
      needsConfigured (.stop 1) = some 1 ∧ busGet s.configured 1 = false := by decide

/-- The three clauses: a count of 0, a held bus, and each time field at 100. -/
theorem test_witness_refused :
    (countIsZero (.wrdata 1 255 0) = true ∧ (Instr.wrdata 1 255 0).wf (idle []).cfg.nBus = true) ∧
    (busGet ({ idle [] with held := busSet State.reset.held 1 true } : State).held 1 = true) ∧
    (let s := b62 (idle [])
     trecOver99 .hour { s with trec := { s.trec with hour := 100 } } = true ∧
      trecOver99 .min { s with trec := { s.trec with min := 100 } } = true ∧
      trecOver99 .sec { s with trec := { s.trec with sec := 255 } } = true ∧
      trecOver99 .sec { s with trec := { s.trec with sec := 99 } } = false) := by decide

theorem test_witness_host_while_busy :
    (∀ a ∈ [HostAction.cmd 0x20000000, .bufWrite 511 1, .bufRead 0, .trecWrite .dst 1, .trecRead .sec,
      .foreignWrite (.i2c 1) .ack (.bit 0), .statusRead],
      (asks midWrdata (.after 0) a).seq ≠ .idle ∧ (asks midWrdata (.after 0) a).host = now a :: []) ∧
    HangsAt .rtcinit 14 .rtc .initf 0 [1] (asks (at' .rtcinit 14 [1]) (.after 1) .statusRead) ∧
    (asks (at' .rtcinit 14 [1]) (.after 1) .statusRead).env = .oracle ([1] ++ []) := by
  refine ⟨by decide, ⟨by decide, by decide, by decide, by simp⟩, by decide⟩

theorem test_witness_host_reads_back :
    (asks (idle []) .whenIdle (.bufWrite 511 7)).seq = .idle ∧
    Memory.get? (asks { idle [] with buf := [(511, 7)] } .whenIdle (.bufRead 511)).buf (511 : BitVec 9).toNat = some 7 ∧
    trecGet (b62 (idle [])).trecKnown .hour = true := by decide

/-- The micro-step tables: CONFIGURE at its ends. -/
theorem test_witness_configure_steps :
    (configureEvents cfg 1)[0]? = some (.wrF (.plat 1) .i2cClkEn (.bit 1)) ∧
      (configureEvents cfg 1)[11]? = some (.wrF (.i2c 1) .pe (.bit 1)) ∧ (at' (.configure 1) 11 []).running = some (.configure 1, 11) := by
  decide
theorem test_witness_start_steps : (at' (.start 1) 2 [1]).running = some (.start 1, 2) ∧ (at' (.start 1) 2 [1]).flagBit .sb = 1 := by
  decide

/-- `i` at its micro-step 1 on bus 1, held since an earlier START. -/
def heldAt (i : Instr) : State :=
  { at' i 1 [] with
    held := busSet State.reset.held 1 true
    tr := [.wrF (.i2c 1) .start (.bit 1), .rdF (.i2c 1) .sb 1, .wrF (.i2c 1) .ack (.bit 1)] }

/-- The START write on a free bus and on a held one: both states meet the invariant. -/
theorem test_witness_repeated_start :
    (Inv (at' (.start 1) 1 []) ∧ busGet (at' (.start 1) 1 []).held 1 = false) ∧
    (∀ i ∈ [Instr.start 1, .write 1 0xA0 0 1], Inv (heldAt i) ∧ busGet (heldAt i).held 1 = true ∧ (heldAt i).running = some (i, 1)) := by
  refine ⟨⟨⟨by decide, ⟨by decide, by decide, by decide, by decide, by decide, fun l h => by cases h⟩, by decide, by decide,
    by decide, by decide, by decide⟩, by decide⟩, ?_⟩
  intro i hi
  fin_cases hi <;>
    exact ⟨⟨by decide, ⟨by decide, by decide, by decide, by decide, by decide, fun l h => by cases h⟩, by decide, by decide,
      by decide, by decide, by decide⟩, by decide, by decide⟩
/-- Its item: Sr on the held bus, S on the free one. -/
theorem test_repeated_start :
    (nextOf (exec (.start 1) (heldAt (.start 1)))).map (fun t => txProjection 1 t.tr) = some [.s, .sr] ∧
    (nextOf (exec (.start 1) (at' (.start 1) 1 []))).map (fun t => txProjection 1 t.tr) = some [.s] := by decide
theorem test_witness_sendaddr_steps :
    (at' (.sendaddr 1 255) 1 [1]).running = some (.sendaddr 1 255, 1) ∧ (at' (.sendaddr 1 255) 1 [1]).flagBit .addr = 1 := by decide
theorem test_witness_stop_step : (at' (.stop 1) 0 []).running = some (.stop 1, 0) := by decide
/-- WRITE and WRDATA: the polls answered, and `rem` at both ends of 1..255. -/
theorem test_witness_write_steps :
    (∀ f ∈ [Flag.sb, .addr, .txe, .btf], (at' (.write 1 0 255 255) 2 [1]).flagBit f = 1) ∧
    (∀ r ∈ ([1, 255] : List Byte), (atRem (.write 1 0 255 255) 10 r []).running = some (.write 1 0 255 255, 10) ∧ 1 ≤ r.toNat ∧
      r.toNat ≤ (255 : Byte).toNat ∧ r ≠ 0) ∧
    (∀ r ∈ ([1, 255] : List Byte), (atRem (.wrdata 1 255 255) 3 r []).running = some (.wrdata 1 255 255, 3)) := by decide
theorem test_witness_read_steps :
    (∀ k ∈ [1, 7], (at' (.read 1 0 255 1) k [1]).running = some (.read 1 0 255 1, k) ∧ (at' (.read 1 0 255 1) k [1]).flagBit .rxne = 1) ∧
    (∀ k ∈ [6, 10, 15], (at' (.read 1 0 255 2) k [1]).running = some (.read 1 0 255 2, k) ∧ (2 : Byte) ≠ 1 ∧
      (at' (.read 1 0 255 2) k [1]).flagBit .rxne = 1) ∧
    (∀ r ∈ ([1, 255] : List Byte), 1 ≤ (atRem (.read 1 0 255 255) 7 r []).rem.toNat ∧
      (atRem (.read 1 0 255 255) 7 r []).rem.toNat ≤ (255 : Byte).toNat) ∧
    ({ at' (.read 1 0 255 255) 0 [] with cfg := { cfg with rdAddrAll := false } } : State).running = some (.read 1 0 255 255, 0) := by
  decide
theorem test_witness_rtcinit_steps :
    (rtcinitEvents cfg)[0]? = some (.wrF .rcc .pwrClkEn (.bit 1)) ∧ (rtcinitEvents cfg)[16]? = some (.wrF .pwr .bkpWrEn (.bit 0)) ∧
    (rtcinitEvents cfg)[14]? = some (.rdF .rtc .initf 0) ∧ (at' .rtcinit 14 [0]).flagBit .initf = 0 ∧ pollAt .rtcinit 16 = none := by decide
/-- S5 with a time that packs and with one that does not; S0, S8, S9. -/
theorem test_witness_rtcset_steps :
    packTr cfg.trLayout (b62 (at' .rtcset 5 [])).sampleHour.1 (b62 (at' .rtcset 5 [])).sampleMin.1 (b62 (at' .rtcset 5 [])).sampleSec.1 =
      some 0x00235958 ∧
    (let s := b62 (at' .rtcset 5 [])
     99 < ({ s with trec := { s.trec with hour := 100 } } : State).sampleHour.1.toNat) ∧
    (rtcsetEvents cfg 0)[0]? = some (.wrF .pwr .bkpWrEn (.bit 1)) ∧ (rtcsetEvents cfg 0)[9]? = some (.wrR .rtc .wpr (.byte 0xFF)) ∧
    (at' .rtcset 8 [0]).flagBit .initf = 0 ∧ pollAt .rtcset 9 = none := by decide
theorem test_witness_rtcget_steps :
    (at' .rtcget 0 [1]).running = some (.rtcget, 0) ∧ (at' .rtcget 0 [1]).flagBit .rsf = 1 ∧
      (at' .rtcget 1 [1]).running = some (.rtcget, 1) ∧ (at' .rtcget 2 [1]).running = some (.rtcget, 2) := by decide

/-! Whole commands. -/

theorem test_witness_ready : Ready 1 (idle [1, 2, 3]) ∧
    Ready 0 { idle [] with cfg := { cfg with checked := true }, configured := busSet State.reset.configured 0 true } := by
  unfold Ready
  decide
/-- Polls that are satisfied at once, that iterate, and that end at the last read POLL_LIMIT 3 allows. -/
theorem test_witness_waits : (Wait.mk [] 1).ok 1 (some 1) ∧ (Wait.mk [0, 0xFFFFFFFE] 0xFFFFFFFF).ok 1 (some 3) ∧
    (Wait.mk [1] 0).ok 0 none ∧ (Wait.mk [0] 1).answers = [0, 1] := by
  simp [Wait.ok, Wait.answers]
theorem test_witness_configure_run : (idle []).seq = .idle ∧ (1 : BitVec 2).toNat < (idle []).cfg.nBus ∧ busGet (idle []).held 1 = false := by
  decide
theorem test_witness_start_run : (idle [0, 1, 9]).env = .oracle ((Wait.mk [0] 1).answers ++ [9]) := by decide
theorem test_witness_sendaddr_run : (idle [0, 1, 2, 3, 9]).env = .oracle ((Wait.mk [0] 1).answers ++ [2, 3] ++ [9]) := by decide
/-- One byte from the last cell an offset can name, its TXE wait of two reads. -/
theorem test_witness_write_run :
    let s : State := { idle [1, 1, 2, 3, 0, 1, 1, 9] with buf := [(255, 0x77)] }
    let sent : List (Wait × Byte) := [({ fails := [0], last := 1 }, 0x77)]
    s.env = .oracle ((Wait.mk [] 1).answers ++ (Wait.mk [] 1).answers ++ [2, 3] ++ sent.flatMap (fun p => p.1.answers) ++
      (Wait.mk [] 1).answers ++ [9]) ∧
    sent.length = (1 : Byte).toNat ∧ Memory.get? s.buf ((255 : Byte).toNat + 0) = some 0x77 := by decide
theorem test_witness_wrdata_run :
    let s : State := { idle [1, 1, 0, 1, 9] with buf := [(2, 0xAB), (3, 0xCD)] }
    let sent : List (Wait × Byte) := [({ fails := [], last := 1 }, 0xAB), ({ fails := [], last := 1 }, 0xCD)]
    s.env = .oracle (sent.flatMap (fun p => p.1.answers) ++ (Wait.mk [0] 1).answers ++ [9]) ∧
    Memory.get? s.buf ((2 : Byte).toNat + 0) = some 0xAB ∧ Memory.get? s.buf ((2 : Byte).toNat + 1) = some 0xCD := by decide
theorem test_witness_read_one_run : (idle [1, 2, 3, 0, 1, 0x5A, 9]).env =
    .oracle ((Wait.mk [] 1).answers ++ [2, 3] ++ (Wait.mk [0] 1).answers ++ [0x5A] ++ [9]) := by decide
/-- Two bytes, with and without the address phase. -/
theorem test_witness_read_many_run :
    let taken : List (Wait × Word) := [({ fails := [], last := 1 }, 0xDE), ({ fails := [0], last := 1 }, 0xAD)]
    2 ≤ (2 : Byte).toNat ∧ taken.length = (2 : Byte).toNat ∧
    (let s := idle [1, 2, 3, 1, 0xDE, 0, 1, 0xAD, 9]
     s.env = .oracle ((if s.cfg.rdAddrAll then (Wait.mk [] 1).answers ++ [2, 3] else []) ++
      taken.flatMap (fun p => p.1.answers ++ [p.2]) ++ [9])) ∧
    (let s : State := { idle [1, 0xDE, 0, 1, 0xAD, 9] with cfg := { cfg with rdAddrAll := false } }
     s.env = .oracle ((if s.cfg.rdAddrAll then (Wait.mk [] 1).answers ++ [2, 3] else []) ++
      taken.flatMap (fun p => p.1.answers ++ [p.2]) ++ [9])) := by
  decide
/-- B61, one failed read in each poll; and RTCSET and RTCGET likewise. -/
theorem test_witness_rtcinit_run :
    (idle [0, 1, 0, 1, 1, 0, 9]).env =
      .oracle ((Wait.mk [0] 1).answers ++ (Wait.mk [0] 1).answers ++ (Wait.mk [1] 0).answers ++ [9]) := by decide
theorem test_witness_rtcset_run :
    let s : State := { b62 (idle [1, 1, 0, 9]) with trec := { (b62 (idle [])).trec with hour := 99, min := 0, sec := 99 } }
    s.seq = .idle ∧ s.env = .oracle ((Wait.mk [] 1).answers ++ (Wait.mk [1] 0).answers ++ [9]) ∧ s.trecKnown.hour = true ∧
      s.trecKnown.min = true ∧ s.trecKnown.sec = true ∧ s.trec.hour.toNat ≤ 99 ∧ s.trec.min.toNat ≤ 99 ∧ s.trec.sec.toNat ≤ 99 := by
  decide
theorem test_witness_rtcget_run :
    (idle [0, 1, 0x235958, 0, 9]).env = .oracle ((Wait.mk [0] 1).answers ++ [0x235958, 0] ++ [9]) := by decide
/-- A command that ends, with STATUS.ERR 0: one I2C, one RTC; P5's READ of one byte, each poll of two reads. -/
theorem test_witness_ends :
    (∀ i m answers, (i, m, answers) ∈ ([(.stop 1, 1, []), (.rtcget, 4, [0, 1, 5, 6]), (.start 1, 3, [1]),
        (.read 1 0xA0 255 1, 11, [0, 1, 2, 3, 0, 1, 0x5A])] : List (Instr × Nat × List Word)) →
      (idle answers).seq = .idle ∧
      (List.range m).all (fun j => match runExec i (j + 1) (idle answers) with
        | .next u => u.seq != .idle | .fault _ => false | .refused _ => false) = true ∧
      (nextOf (runExec i (m + 1) (idle answers))).map (fun t => (t.seq, t.err)) = some (.idle, 0)) := by
  intro i m answers h
  fin_cases h <;> decide

/-! Frames and whole-machine rules. -/

theorem test_witness_i2c_frame :
    (Instr.wrdata 1 255 255).bus? = some 1 ∧ (nextOf (exec (.wrdata 1 255 255) midWrdata)).isSome = true := by decide
theorem test_witness_rtc_frame : Instr.rtcset.bus? = none ∧ (nextOf (exec .rtcset midRtcset)).isSome = true := by decide
/-- READ stores its byte at 509, the last index there is. -/
theorem test_witness_read_writes_buf :
    (nextOf (exec (.read 1 0 255 255) (atRem (.read 1 0 255 255) 16 1 [0x5A]))).map (fun t => t.buf) = some [(509, 0x5A)] := by decide
theorem test_witness_own_device :
    (nextOf (exec (.configure 1) (at' (.configure 1) 0 []))).map (fun t => t.tr) = some [.wrF (.plat 1) .i2cClkEn (.bit 1)] ∧
    (nextOf (exec .rtcget (at' .rtcget 0 [1]))).map (fun t => t.tr) = some [.rdF .rtc .rsf 1] := by decide
/-- POS, PE, START, STOP written 1; BKP_WR_EN written 1 and, by RTCINIT, 0. -/
theorem test_witness_fields_written :
    seen (exec (.read 1 0 0 1) (at' (.read 1 0 0 1) 3 [])) = some ([.wrF (.i2c 1) .pos (.bit 1)], .run .read 4) ∧
    seen (exec (.configure 1) (at' (.configure 1) 11 [])) = some ([.wrF (.i2c 1) .pe (.bit 1)], .idle) ∧
    seen (exec .rtcset (at' .rtcset 0 [])) = some ([.wrF .pwr .bkpWrEn (.bit 1)], .run .rtcset 1) ∧
    seen (exec .rtcinit (at' .rtcinit 16 [])) = some ([.wrF .pwr .bkpWrEn (.bit 0)], .idle) := by decide

/-! BCD, the time round trip, the EEPROM client. -/

theorem test_witness_bcd : (99 : Byte).toNat ≤ 99 ∧ 99 < (100 : Byte).toNat := by decide
/-- A layout with its fields in the other order, up to the top of the word; words that differ outside the fields; digits at both
ends of 0..9, and bits outside the fields. -/
theorem test_witness_unpack :
    ({ ht := 0, hu := 4, mnt := 8, mnu := 12, st := 24, su := 28 } : TrLayout).wf = true ∧
    (∀ o ∈ TrLayout.default.offsets, (0xFF235958 : Word).extractLsb' o 4 = (0x00235958 : Word).extractLsb' o 4) ∧
    (∀ v ∈ ([0, 99] : List Byte), v.toNat ≤ 99) ∧ (∀ k ∈ [24, 31, 32], ∀ o ∈ TrLayout.default.offsets, k < o ∨ o + 4 ≤ k) := by
  decide
theorem test_witness_round_trip :
    let s : State := { b62 (idle []) with env := Env.fresh 3 [] }
    Inv s ∧ s.seq = .idle ∧ s.cfg.pollLimit = none ∧ s.trecKnown.hour = true ∧ s.trecKnown.min = true ∧ s.trecKnown.sec = true ∧
      s.trec.hour.toNat ≤ 99 ∧ s.trec.min.toNat ≤ 99 ∧ s.trec.sec.toNat ≤ 99 := by
  exact ⟨⟨by decide, trivial, by decide, by decide, by decide, by decide, by decide⟩, by decide⟩
/-- B76, B77 and the ends of the range. -/
theorem test_witness_eeprom :
    (∀ p ∈ ([(0, 255), (0x0FFE, 2), (0x0FFF, 1)] : List (BitVec 16 × Byte)), p.1.toNat < 4096 ∧ p.1.toNat + p.2.toNat ≤ 4096) ∧
    (∀ p ∈ ([(0x0FFF, 2), (0x1000, 0), (0xFFFF, 255)] : List (BitVec 16 × Byte)), 4096 ≤ p.1.toNat ∨ 4096 < p.1.toNat + p.2.toNat) := by
  simp
/-- A SENDADDR of an expansion after a command that timed out; the host's own next command stays. -/
theorem test_witness_expansion_stops :
    let s : State := { idle [] with
      err := 1, host := [hostContinues (.sendaddr 0 0xA0), hostContinues (.stop 0), hostWaits (.cmd 0x20000000)] }
    s.seq = .idle ∧ s.err ≠ 0 ∧ (hostContinues (.sendaddr 0 0xA0)).cont = true ∧ (hostWaits (.cmd 0x20000000)).cont = false ∧
      (nextOf (step s)).map (fun t => t.host) = some [hostWaits (.cmd 0x20000000)] := by decide

/-- A field RTCSET does not read, at S5, and S6. -/
theorem test_witness_unused_fields :
    TField.dst ≠ .hour ∧ TField.dst ≠ .min ∧ TField.dst ≠ .sec ∧ (nextOf (exec .rtcset midRtcset)).isSome = true ∧
      (at' .rtcset 6 []).running = some (.rtcset, 6) := by decide
theorem test_witness_post_reset_read :
    (idle [0, 1, 1, 0, 1, 0, 7, 9]).seq = .idle ∧ (idle [0, 1, 1, 0, 1, 0, 7, 9]).env =
      .oracle ((Wait.mk [0] 1).answers ++ (Wait.mk [] 1).answers ++ (Wait.mk [] 0).answers ++ (Wait.mk [] 1).answers ++ [0, 7] ++ [9]) := by
  decide
theorem test_witness_env0 : ({ idle [] with env := Env.fresh 2 [0x5A] } : State).env =
    .env0 { k := 2, rx := [0x5A], pollReads := 0, init := 0, prevInit := 0, initReads := 0, tr := 0, date := 0 } := by decide
/-- The states the reads and writes of ENV0 leave, at k = 2: no read yet, the last read that fails, INIT written. -/
theorem test_env0_counts :
    let s : State := { idle [] with env := Env.fresh 2 [] }
    (Nat.repeat (State.rdF (.i2c 0) .txe) 1 s).flagBit .txe = 0 ∧ (Nat.repeat (State.rdF (.i2c 0) .txe) 2 s).flagBit .txe = 1 ∧
      (Nat.repeat (State.rdF .rtc .initf) 1 (s.wrF .rtc .init (.bit 1))).flagBit .initf = 0 ∧
      (Nat.repeat (State.rdF .rtc .initf) 2 (s.wrF .rtc .init (.bit 1))).flagBit .initf = 1 := by decide
/-- One byte into the last cell of the device, CHECKED true, after CONFIGURE, the bus held by an earlier START. -/
theorem test_witness_eewrite :
    let w : Wait := { fails := [], last := 1 }
    let s : State := { asks (idle (List.replicate 8 1 ++ [0, 1, 9])) .whenIdle (.eeWrite 1 0xA0 0x0FFF 1) with
      cfg := { cfg with checked := true }, configured := busSet State.reset.configured 1 true
      held := busSet State.reset.held 1 true, buf := [(2, 0xAB)]
      tr := configureEvents cfg 1 ++ [.wrF (.i2c 1) .ack (.bit 1), .wrF (.i2c 1) .start (.bit 1), .rdF (.i2c 1) .sb 1] }
    let payload : List (Wait × Byte) := [(w, 0xAB)]
    Ready 1 s ∧ heldByTrace 1 s.tr = true ∧ (1 : Byte) ≠ 0 ∧ (0x0FFF : BitVec 16).toNat + (1 : Byte).toNat ≤ 4096 ∧
      payload.length = (1 : Byte).toNat ∧ Memory.get? s.buf (2 + 0) = some 0xAB ∧
      s.env = .oracle (w.answers ++ w.answers ++ [1, 1] ++ w.answers ++ w.answers ++ w.answers ++
        payload.flatMap (fun p => p.1.answers) ++ (Wait.mk [0] 1).answers ++ [9]) := by
  unfold Ready
  refine ⟨by decide, by decide, by decide, by simp, by decide, by decide, by decide⟩

end Sys2Proof.Tests
end

section
/-! What every call of `exec` does to the configuration, the trace and the Register Interface record. -/

namespace Sys2Proof.Machine

/-- From `s` to `t` there is at most one event, appended to the trace and recorded under its name, and the configuration stays
(00_scope R6, R9). -/
def AtMostOneEvent (s t : State) : Prop :=
  t.cfg = s.cfg ∧ ∃ es : List Event, es.length ≤ 1 ∧ t.tr = s.tr ++ es ∧ t.ri = record s.ri es

/-- A state update that emits nothing and leaves the configuration, as every way on to the next micro-step does. -/
def Silent (g : State → State) : Prop := ∀ t : State, (g t).cfg = t.cfg ∧ (g t).tr = t.tr ∧ (g t).ri = t.ri

theorem silent_advance : Silent State.advance := by simp [Silent]

theorem silent_finish : Silent State.finish := by simp [Silent]

theorem silent_goto (j : Nat) : Silent (State.goto j) := by simp [Silent]

theorem silent_setHeld {g : State → State} (hg : Silent g) (b : BitVec 2) (x : Bool) : Silent (fun t => g (t.setHeld b x)) :=
  fun t => hg (t.setHeld b x)

theorem silent_setRtc {g : State → State} (hg : Silent g) (x : RtcState) : Silent (fun t => g (t.setRtc x)) :=
  fun t => hg (t.setRtc x)

theorem silent_setConfigured {g : State → State} (hg : Silent g) (b : BitVec 2) : Silent (fun t => g (t.setConfigured b)) :=
  fun t => hg (t.setConfigured b)

theorem silent_setRem {g : State → State} (hg : Silent g) (r : Byte) : Silent (fun t => g { t with rem := r }) :=
  fun t => hg { t with rem := r }

theorem atMostOneEvent_none {s t : State} (hc : t.cfg = s.cfg) (ht : t.tr = s.tr) (hr : t.ri = s.ri) : AtMostOneEvent s t :=
  ⟨hc, [], by simp, by simpa using ht, by simpa using hr⟩

theorem atMostOneEvent_one {s t : State} (e : Event) (hc : t.cfg = s.cfg) (ht : t.tr = s.tr ++ [e]) (hr : t.ri = record s.ri [e]) :
    AtMostOneEvent s t :=
  ⟨hc, [e], by simp, ht, hr⟩

theorem AtMostOneEvent.silent {s t : State} {g : State → State} (h : AtMostOneEvent s t) (hg : Silent g) :
    AtMostOneEvent s (g t) := by
  obtain ⟨hc, ht, hr⟩ := hg t
  unfold AtMostOneEvent
  rw [hc, ht, hr]
  exact h

/-! ### The operations a micro-step is made of -/

section
variable {g : State → State} (hg : Silent g) {s : State}
include hg

theorem event_atMostOneEvent {w : State} (e : Event) (hc : w.cfg = s.cfg) (ht : w.tr = s.tr ++ [e])
    (hr : w.ri = record s.ri [e]) : NextHas (.next (g w)) (AtMostOneEvent s) :=
  (nextHas_next _ _).2 ((atMostOneEvent_one e hc ht hr).silent hg)

theorem wrF_atMostOneEvent {d : Dev} {f : Field} {v : Val} : NextHas (.next (g (s.wrF d f v))) (AtMostOneEvent s) :=
  event_atMostOneEvent hg (.wrF d f v) rfl rfl rfl

theorem wrR_atMostOneEvent {d : Dev} {r : Reg} {v : Val} : NextHas (.next (g (s.wrR d r v))) (AtMostOneEvent s) :=
  event_atMostOneEvent hg (.wrR d r v) rfl rfl rfl

theorem rdWord_atMostOneEvent {d : Dev} {r : Reg} : NextHas (.next (g (s.rdWord d r))) (AtMostOneEvent s) :=
  event_atMostOneEvent hg (.rdR d r (.word (s.regWord r))) rfl rfl rfl

theorem rdDr_atMostOneEvent {d : Dev} {a : Nat} {v : Byte} :
    NextHas (.next (g ((s.rdDr d).writeBuf a v))) (AtMostOneEvent s) :=
  event_atMostOneEvent hg (.rdR d .dr (.byte s.drByte)) rfl rfl rfl

theorem silent_atMostOneEvent : NextHas (.next (g s)) (AtMostOneEvent s) :=
  (nextHas_next _ _).2 ((atMostOneEvent_none rfl rfl rfl).silent hg)

theorem poll_atMostOneEvent {d : Dev} {f : Flag} {want : BitVec 1} : NextHas (poll d f want g s) (AtMostOneEvent s) := by
  have hread : AtMostOneEvent s (s.rdF d f).countPoll :=
    atMostOneEvent_one (.rdF d f (s.flagBit f)) (by simp) (by simp) (by simp [Event.name, Event.val])
  have hclear : Silent State.clearPolls := by simp [Silent]
  exact nextHas_poll (fun _ => (hread.silent hclear).silent hg) (fun _ _ => hread) (fun _ _ => hread)

theorem countDown_atMostOneEvent : NextHas (countDown g s) (AtMostOneEvent s) := by
  unfold countDown
  split
  · simp
  · exact silent_atMostOneEvent (silent_setRem hg (s.rem - 1))

end

theorem sendByte_atMostOneEvent {b : BitVec 2} {off cnt : Byte} {s : State} :
    NextHas (sendByte b off cnt s) (AtMostOneEvent s) := by
  unfold sendByte
  split
  · rename_i j _
    exact event_atMostOneEvent silent_advance (.wrR (.i2c b) .dr (.byte (s.readBuf j).1)) (by simp) (by simp)
      (by simp [Event.name, Event.val])
  · simp

theorem takeByte_atMostOneEvent {b : BitVec 2} {off cnt : Byte} {s : State} :
    NextHas (takeByte b off cnt s) (AtMostOneEvent s) := by
  unfold takeByte
  split
  · exact rdDr_atMostOneEvent silent_advance
  · simp

theorem writeTime_atMostOneEvent {s : State} : NextHas (writeTime s) (AtMostOneEvent s) := by
  unfold writeTime
  split
  · rename_i w _
    exact event_atMostOneEvent silent_advance (.wrR .rtc .tr (.word w)) (by simp) (by simp) (by simp [Event.name, Event.val])
  · simp

/-! ### The phases and the micro-step lists -/

theorem startPhase_atMostOneEvent {b : BitVec 2} {fin : State → State} (hfin : Silent fin) (k : Nat) (s : State) :
    NextHas (startPhase b fin k s) (AtMostOneEvent s) := by
  unfold startPhase
  split
  · exact wrF_atMostOneEvent silent_advance
  · exact wrF_atMostOneEvent silent_advance
  · exact poll_atMostOneEvent (silent_setHeld hfin b true)
  · simp

theorem addrPhase_atMostOneEvent {b : BitVec 2} {sel : Byte} {fin : State → State} (hfin : Silent fin) (k : Nat) (s : State) :
    NextHas (addrPhase b sel fin k s) (AtMostOneEvent s) := by
  unfold addrPhase
  split
  · exact wrR_atMostOneEvent silent_advance
  · exact poll_atMostOneEvent silent_advance
  · exact rdWord_atMostOneEvent silent_advance
  · exact rdWord_atMostOneEvent hfin
  · simp

theorem dataPhase_atMostOneEvent (b : BitVec 2) (off cnt : Byte) (base k : Nat) (s : State) :
    NextHas (dataPhase b off cnt base k s) (AtMostOneEvent s) := by
  unfold dataPhase
  split
  · exact silent_atMostOneEvent (silent_setRem silent_advance cnt)
  · split
    · exact silent_atMostOneEvent (silent_goto (base + 5))
    · exact silent_atMostOneEvent silent_advance
  · exact poll_atMostOneEvent silent_advance
  · exact sendByte_atMostOneEvent
  · exact countDown_atMostOneEvent (silent_goto (base + 1))
  · exact poll_atMostOneEvent silent_finish
  · simp

theorem readOne_atMostOneEvent (b : BitVec 2) (addr off : Byte) (k : Nat) (s : State) :
    NextHas (readOne b addr off k s) (AtMostOneEvent s) := by
  unfold readOne
  split
  · exact wrR_atMostOneEvent silent_advance
  · exact poll_atMostOneEvent silent_advance
  iterate 2 · exact wrF_atMostOneEvent silent_advance
  iterate 2 · exact rdWord_atMostOneEvent silent_advance
  · exact wrF_atMostOneEvent (silent_setHeld silent_advance b false)
  · exact poll_atMostOneEvent silent_advance
  · exact rdDr_atMostOneEvent (silent_setRem silent_finish 0)
  · simp

theorem readMany_atMostOneEvent (b : BitVec 2) (addr off cnt : Byte) (k : Nat) (s : State) :
    NextHas (readMany b addr off cnt k s) (AtMostOneEvent s) := by
  unfold readMany
  split
  iterate 4 · exact addrPhase_atMostOneEvent silent_advance _ s
  · exact silent_atMostOneEvent (silent_setRem (silent_goto 5) cnt)
  · split
    · exact silent_atMostOneEvent (silent_goto 10)
    · exact silent_atMostOneEvent silent_advance
  · exact poll_atMostOneEvent silent_advance
  · exact takeByte_atMostOneEvent
  · exact wrF_atMostOneEvent silent_advance
  · exact countDown_atMostOneEvent (silent_goto 5)
  · exact poll_atMostOneEvent silent_advance
  · exact takeByte_atMostOneEvent
  · exact wrF_atMostOneEvent silent_advance
  · exact wrF_atMostOneEvent (silent_setHeld silent_advance b false)
  · exact countDown_atMostOneEvent silent_advance
  · exact poll_atMostOneEvent silent_advance
  · exact takeByte_atMostOneEvent
  · exact countDown_atMostOneEvent silent_finish
  · simp

theorem configureStep_atMostOneEvent (b : BitVec 2) (k : Nat) (s : State) :
    NextHas (configureStep b k s) (AtMostOneEvent s) := by
  unfold configureStep
  split
  · split
    · exact wrF_atMostOneEvent (silent_setConfigured silent_finish b)
    · exact wrF_atMostOneEvent silent_advance
  · simp

theorem stopStep_atMostOneEvent (b : BitVec 2) (k : Nat) (s : State) : NextHas (stopStep b k s) (AtMostOneEvent s) := by
  unfold stopStep
  split
  · exact wrF_atMostOneEvent (silent_setHeld silent_finish b false)
  · simp

theorem rtcinitStep_atMostOneEvent (k : Nat) (s : State) : NextHas (rtcinitStep k s) (AtMostOneEvent s) := by
  unfold rtcinitStep
  split
  · exact wrF_atMostOneEvent (silent_setRtc silent_advance .clockEnabling)
  iterate 2 · exact wrF_atMostOneEvent silent_advance
  · exact poll_atMostOneEvent silent_advance
  iterate 2 · exact wrF_atMostOneEvent silent_advance
  · exact wrR_atMostOneEvent silent_advance
  · exact wrR_atMostOneEvent (silent_setRtc silent_advance .writeUnlocked)
  · exact wrF_atMostOneEvent silent_advance
  · exact poll_atMostOneEvent (silent_setRtc silent_advance .initMode)
  iterate 4 · exact wrF_atMostOneEvent silent_advance
  · exact poll_atMostOneEvent (silent_setRtc silent_advance .writeUnlocked)
  · exact wrR_atMostOneEvent (silent_setRtc silent_advance .writeLocked)
  · exact wrF_atMostOneEvent (silent_setRtc silent_finish .running)
  · simp

theorem rtcsetStep_atMostOneEvent (k : Nat) (s : State) : NextHas (rtcsetStep k s) (AtMostOneEvent s) := by
  unfold rtcsetStep
  split
  · exact wrF_atMostOneEvent silent_advance
  · exact wrR_atMostOneEvent silent_advance
  · exact wrR_atMostOneEvent (silent_setRtc silent_advance .writeUnlocked)
  · exact wrF_atMostOneEvent silent_advance
  · exact poll_atMostOneEvent (silent_setRtc silent_advance .initMode)
  · exact writeTime_atMostOneEvent
  · exact wrR_atMostOneEvent silent_advance
  · exact wrF_atMostOneEvent silent_advance
  · exact poll_atMostOneEvent (silent_setRtc silent_advance .writeUnlocked)
  · exact wrR_atMostOneEvent (silent_setRtc (silent_setRtc silent_finish .running) .writeLocked)
  · simp

theorem rtcgetStep_atMostOneEvent (k : Nat) (s : State) : NextHas (rtcgetStep k s) (AtMostOneEvent s) := by
  unfold rtcgetStep
  split
  · exact poll_atMostOneEvent silent_advance
  · exact event_atMostOneEvent silent_advance (.rdR .rtc .tr (.word (s.regWord .tr))) (w := s.takeTime) rfl rfl rfl
  · exact rdWord_atMostOneEvent silent_finish
  · simp

theorem writeStep_atMostOneEvent (b : BitVec 2) (addr off n : Byte) (k : Nat) (s : State) :
    NextHas (writeStep b addr off n k s) (AtMostOneEvent s) := by
  unfold writeStep
  split
  · exact startPhase_atMostOneEvent silent_advance k s
  · split
    · exact addrPhase_atMostOneEvent silent_advance _ s
    · exact dataPhase_atMostOneEvent b off n 7 _ s

theorem readStep_atMostOneEvent (b : BitVec 2) (addr off n : Byte) (k : Nat) (s : State) :
    NextHas (readStep b addr off n k s) (AtMostOneEvent s) := by
  unfold readStep
  split
  · exact readOne_atMostOneEvent b addr off k s
  · exact readMany_atMostOneEvent b addr off n _ s

theorem bodyOf_atMostOneEvent (i : Instr) (k : Nat) (s : State) : NextHas (bodyOf i k s) (AtMostOneEvent s) := by
  cases i with
  | configure b => exact configureStep_atMostOneEvent b k s
  | start b => exact startPhase_atMostOneEvent silent_finish k s
  | sendaddr b sel => exact addrPhase_atMostOneEvent silent_finish k s
  | write b addr off n => exact writeStep_atMostOneEvent b addr off n k s
  | wrdata b off n => exact dataPhase_atMostOneEvent b off n 0 k s
  | read b addr off n => exact readStep_atMostOneEvent b addr off n k s
  | stop b => exact stopStep_atMostOneEvent b k s
  | rtcinit => exact rtcinitStep_atMostOneEvent k s
  | rtcset => exact rtcsetStep_atMostOneEvent k s
  | rtcget => exact rtcgetStep_atMostOneEvent k s

/-- Acceptance is silent, and a micro-step emits at most one event. -/
theorem exec_atMostOneEvent (i : Instr) (s : State) : NextHas (exec i s) (AtMostOneEvent s) :=
  nextHas_exec
    (fun _ => nextHas_accept (fun _ => atMostOneEvent_none rfl rfl rfl) (fun _ _ _ => atMostOneEvent_none rfl rfl rfl)
      (fun _ _ _ => atMostOneEvent_none rfl rfl rfl))
    (fun k _ _ => bodyOf_atMostOneEvent i k s)

/-- A name that no event of the list accesses keeps its recorded value: the keys of two names differ. -/
theorem get?_record_of_not_named (ri : List (Nat × Val)) (es : List Event) (n : RiName) (h : ∀ e ∈ es, e.name ≠ n) :
    Memory.get? (record ri es) n.code = Memory.get? ri n.code := by
  induction es generalizing ri with
  | nil => rfl
  | cons e es ih =>
    have hne : n.code ≠ e.name.code := fun hc => h e (by simp) (RiName.code_inj _ _ hc).symm
    rw [record_cons, ih _ fun x hx => h x (by simp [hx]), Memory.get?_set_other _ _ _ _ hne]

/-- Settles O11: the sequencer's turn keeps the configuration as every micro-step does, and so does each host action. -/
theorem configurationNeverChanges : Obligations.ConfigurationNeverChanges := by
  intro s
  have hexec : ∀ (i : Instr) (host : List HostItem), NextHas (exec i { s with host := host }) fun t => t.cfg = s.cfg :=
    fun i host t h => (exec_atMostOneEvent i _ t h).1
  refine nextHas_step (p := fun t => t.cfg = s.cfg) (fun _ _ => rfl) (fun i _ host _ => hexec i host) fun it rest _ _ => ?_
  exact nextHas_hostTurn (fun _ => rfl) (fun i _ _ => hexec i rest) (fun _ => rfl) (fun _ _ _ => rfl) (fun _ _ _ => by simp)
    (fun _ _ _ => rfl) (fun _ _ _ => by simp) rfl rfl (fun _ _ _ _ => rfl) (fun _ _ => rfl)

/-- Settles O12: at most one event is emitted and recorded, and it is recorded under the key of its own name. -/
theorem microStepIsAtMostOneEvent : Obligations.MicroStepIsAtMostOneEvent := by
  intro i s t h
  obtain ⟨-, es, hlen, htr, hri⟩ := exec_atMostOneEvent i s t h
  exact ⟨es, hlen, htr, hri, fun n hn => hri ▸ get?_record_of_not_named s.ri es n hn⟩

end Sys2Proof.Machine
end

section
/-! The polls of a command, in order, and the bytes READ takes, over any environment (00_scope R15, 20_memory R56). The micro-step
lists are followed backwards from `done`: what is still to come from a micro-step on is what this micro-step adds to what is
still to come from the next one on. A poll counts as one step of this argument, however many reads it makes. -/

namespace Sys2Proof.Machine

/-! ### The polls a trace begins -/

/-- One execution of `poll`, as `pollAt` names it. -/
abbrev Poll := Dev × Flag × BitVec 1

/-- The poll an event begins: a flag read while no poll is in progress. -/
def pollBegun (init : BitVec 1) (fails : Nat) : Event → List Poll
  | .rdF d f _ => if fails = 0 then [(d, f, wantedOf init f)] else []
  | .rdR _ _ _ => []
  | .wrF _ _ _ => []
  | .wrR _ _ _ => []

/-- The polls begun, in order, from a point where INIT was last written `init` and the poll in progress has failed `fails` times. -/
def pollsFrom (limit : Option Nat) : BitVec 1 → Nat → List Event → List Poll
  | _, _, [] => []
  | init, fails, e :: rest =>
    pollBegun init fails e ++ pollsFrom limit (initAfter init e) (failsAfter limit init fails e) rest

theorem count_pollBegun (d : Dev) (f : Flag) (want init : BitVec 1) (fails : Nat) (e : Event) :
    (pollBegun init fails e).count (d, f, want) = if beginsWait d f want init fails e then 1 else 0 := by
  cases e with
  | rdF d' f' v =>
    by_cases h : fails = 0
    · by_cases hp : d' = d ∧ f' = f
      · obtain ⟨rfl, rfl⟩ := hp
        simp [pollBegun, beginsWait, Event.name, h, List.count_singleton]
      · simp [pollBegun, beginsWait, Event.name, h, List.count_singleton]
        grind
    · simp [pollBegun, beginsWait, h]
  | _ => simp [pollBegun, beginsWait, Event.name]

/-- The waits for one flag are the polls of that flag. -/
theorem waitsFrom_eq_count (limit : Option Nat) (d : Dev) (f : Flag) (want init : BitVec 1) (fails : Nat) (es : List Event) :
    waitsFrom limit d f want init fails es = (pollsFrom limit init fails es).count (d, f, want) := by
  induction es generalizing init fails with
  | nil => rfl
  | cons e es ih => rw [waitsFrom, pollsFrom, List.count_append, count_pollBegun, ih]

/-! ### A running command up to its `done` -/

/-- `i`, running at the state, goes on micro-step by micro-step until it ends at `t` with STATUS.ERR 0. -/
inductive Finishes (i : Instr) (t : State) : State → Prop
  | done (hi : t.seq = .idle) (he : t.err = 0) : Finishes i t t
  | micro {u v : State} (hu : u.seq ≠ .idle) (hv : exec i u = .next v) (h : Finishes i t v) : Finishes i t u

theorem Finishes.of_idle {i : Instr} {t u : State} (h : Finishes i t u) (hu : u.seq = .idle) : t = u ∧ u.err = 0 := by
  cases h with
  | done _ he => exact ⟨rfl, he⟩
  | micro hne => exact absurd hu hne

theorem Finishes.next {i : Instr} {t u : State} (h : Finishes i t u) (hu : u.seq ≠ .idle) :
    ∃ v, exec i u = .next v ∧ Finishes i t v := by
  cases h with
  | done hi => exact absurd hi hu
  | micro _ hv h => exact ⟨_, hv, h⟩

theorem runExec_one {i : Instr} {s t : State} (h : runExec i 1 s = .next t) : exec i s = .next t := by
  cases he : exec i s with
  | next u => rw [runExec_next he] at h; exact h
  | fault r => simp [runExec, he] at h
  | refused r => simp [runExec, he] at h

/-- A command that ends without an error has been presented and has then run to its `done`. -/
theorem Ends.finishes {i : Instr} {m : Nat} {s t : State} (h : Ends i m s t) (he : t.err = 0) :
    ∃ u, exec i s = .next u ∧ Finishes i t u := by
  induction m generalizing s with
  | zero => exact ⟨t, runExec_one h.2.1, .done h.2.2 he⟩
  | succ m ih =>
    obtain ⟨hbusy, hrun, hidle⟩ := h
    obtain ⟨u, hu, hne⟩ := hbusy 0 (by omega)
    have hsu := runExec_one hu
    rw [runExec_next hsu] at hrun
    have hrest : Ends i m u t :=
      ⟨fun j hj => by simpa [runExec_next hsu] using hbusy (j + 1) (by omega), hrun, hidle⟩
    obtain ⟨v, hv, hf⟩ := ih hrest
    exact ⟨u, hsu, .micro hne hv hf⟩

/-! ### What a stretch of a run has made -/

/-- Between `u` and `t` the polls of `plan` were begun, in this order, and `n` bytes were read from DR of bus `b`, which stand in
order in the cells from `a` on, the rest of BUF being as at `u`. At `u` INIT was last written `init`, and the poll in progress had
failed `fails` times. -/
def Made (limit : Option Nat) (init : BitVec 1) (fails : Nat) (plan : List Poll) (b : BitVec 2) (a n : Nat) (u t : State) : Prop :=
  ∃ (es : List Event) (bytes : List Byte), t.tr = u.tr ++ es ∧ pollsFrom limit init fails es = plan ∧
    bytes.length = n ∧ rxProjection b es = bytes.map .byte ∧ t.buf = writeBytes u.buf a bytes

/-- An event that is no flag read, no read of DR and no write of INIT. -/
def Event.plain : Event → Bool
  | .rdF _ _ _ => false
  | .rdR _ r _ => r != .dr
  | .wrF _ f _ => f != .init
  | .wrR _ _ _ => true

section
variable {limit : Option Nat} {init : BitVec 1} {fails : Nat} {plan : List Poll} {b : BitVec 2} {a n : Nat} {u v t : State}

theorem made_nil : Made limit init fails [] b a 0 t t := ⟨[], [], by simp, rfl, rfl, rfl, rfl⟩

theorem Made.move (htr : v.tr = u.tr) (hbuf : v.buf = u.buf) (h : Made limit init fails plan b a n v t) :
    Made limit init fails plan b a n u t := by
  unfold Made at *
  rwa [htr, hbuf] at h

/-- An event that reads nothing from DR. -/
theorem Made.event {e : Event} (htr : v.tr = u.tr ++ [e]) (hbuf : v.buf = u.buf) (hrx : ∀ d x, e ≠ .rdR d .dr x)
    (h : Made limit (initAfter init e) (failsAfter limit init fails e) plan b a n v t) :
    Made limit init fails (pollBegun init fails e ++ plan) b a n u t := by
  obtain ⟨es, bytes, ht, hp, hlen, hr, hb⟩ := h
  refine ⟨e :: es, bytes, by simp [ht, htr], by rw [pollsFrom, hp], hlen, ?_, hbuf ▸ hb⟩
  cases e with
  | rdR d r x =>
    have hne : r ≠ .dr := fun h => hrx d x (h ▸ rfl)
    simpa [rxProjection, hne] using hr
  | _ => exact hr

theorem Made.plain {e : Event} (he : e.plain = true) (htr : v.tr = u.tr ++ [e]) (hbuf : v.buf = u.buf)
    (h : Made limit init 0 plan b a n v t) : Made limit init 0 plan b a n u t := by
  cases e with
  | rdF d f x => simp [Event.plain] at he
  | rdR d r x =>
    refine Made.event htr hbuf (fun d' x' hx => ?_) h
    simp_all [Event.plain]
  | wrF d f x =>
    have hi : initAfter init (.wrF d f x) = init := by
      have : f ≠ .init := by simpa [Event.plain] using he
      simp [initAfter, this]
    refine Made.event htr hbuf (by simp) ?_
    rwa [hi]
  | wrR d r x => exact Made.event htr hbuf (by simp) h

theorem Made.writeInit (x : BitVec 1) (htr : v.tr = u.tr ++ [.wrF .rtc .init (.bit x)]) (hbuf : v.buf = u.buf)
    (h : Made limit x 0 plan b a n v t) : Made limit init 0 plan b a n u t := by
  have hi : initAfter init (.wrF .rtc .init (.bit x)) = x := by
    have hbit : ∀ y : BitVec 1, y = 1 ∨ y = 0 := by decide
    rcases hbit x with rfl | rfl <;> simp [initAfter]
  refine Made.event htr hbuf (by simp) ?_
  rwa [hi]

theorem Made.byte (x : Byte) (htr : v.tr = u.tr ++ [.rdR (.i2c b) .dr (.byte x)]) (hbuf : v.buf = Memory.set u.buf a x)
    (h : Made limit init 0 plan b (a + 1) n v t) : Made limit init 0 plan b a (n + 1) u t := by
  obtain ⟨es, bytes, ht, hp, hlen, hr, hb⟩ := h
  refine ⟨.rdR (.i2c b) .dr (.byte x) :: es, x :: bytes, by simp [ht, htr], hp, by simp [hlen], ?_, ?_⟩
  · simp [rxProjection, hr]
  · rw [hb, hbuf]; rfl

end

/-! ### Positions, and the ways on -/

/-- `i` is at micro-step `q`, or the block is idle; `rem` is as given and no poll is in progress. -/
structure At (c : Config) (i : Instr) (q : Option Nat) (rem : Byte) (u : State) : Prop where
  /-- The configuration. -/
  cfg : u.cfg = c
  /-- The sequencer. -/
  running : u.running = q.map fun k => (i, k)
  /-- The remaining count. -/
  rem : u.rem = rem
  /-- The reads of a poll in progress. -/
  polls : u.polls = 0

theorem State.running_congr {u w : State} (hs : w.seq = u.seq) (hl : w.lat = u.lat) : w.running = u.running := by
  unfold State.running
  rw [hs, hl]

theorem At.congr {c : Config} {i : Instr} {q : Option Nat} {rem : Byte} {u w : State} (h : At c i q rem u) (hc : w.cfg = u.cfg)
    (hs : w.seq = u.seq) (hl : w.lat = u.lat) (hr : w.rem = u.rem) (hp : w.polls = u.polls) : At c i q rem w :=
  ⟨hc.trans h.cfg, (State.running_congr hs hl).trans h.running, hr.trans h.rem, hp.trans h.polls⟩

theorem At.setRem {c : Config} {i : Instr} {q : Option Nat} {rem : Byte} {u : State} (h : At c i q rem u) (r : Byte) :
    At c i q r { u with rem := r } := ⟨h.cfg, h.running, rfl, h.polls⟩

theorem At.not_idle {c : Config} {i : Instr} {k : Nat} {rem : Byte} {u : State} (h : At c i (some k) rem u) : u.seq ≠ .idle := by
  intro hi
  have := h.running
  simp [State.running_of_idle hi] at this

/-- `g` leads from micro-step `k` on to `q`; the configuration, `rem`, the count of polls, the trace and BUF stay. -/
def Moves (i : Instr) (k : Nat) (g : State → State) (q : Option Nat) : Prop :=
  ∀ c rem w, At c i (some k) rem w → At c i q rem (g w) ∧ (g w).tr = w.tr ∧ (g w).buf = w.buf

section
variable {i : Instr} {k : Nat}

theorem moves_advance : Moves i k State.advance (some (k + 1)) := by
  intro c rem w h
  obtain ⟨hs, hi⟩ := State.running_some h.running
  refine ⟨⟨by simpa using h.cfg, ?_, by simpa using h.rem, by simpa using h.polls⟩, by simp, by simp⟩
  rw [State.running_of_run (State.advance_seq_of hs), State.advance_lat, hi]
  rfl

theorem moves_goto (j : Nat) : Moves i k (State.goto j) (some j) := by
  intro c rem w h
  obtain ⟨hs, hi⟩ := State.running_some h.running
  refine ⟨⟨by simpa using h.cfg, ?_, by simpa using h.rem, by simpa using h.polls⟩, by simp, by simp⟩
  rw [State.running_of_run (State.goto_seq_of hs), State.goto_lat, hi]
  rfl

theorem moves_finish : Moves i k State.finish none :=
  fun _ _ _ h => ⟨⟨h.cfg, rfl, h.rem, h.polls⟩, rfl, rfl⟩

theorem Moves.setHeld {g : State → State} {q : Option Nat} (hg : Moves i k g q) (b : BitVec 2) (x : Bool) :
    Moves i k (fun t => g (t.setHeld b x)) q :=
  fun c rem w h => hg c rem (w.setHeld b x) (h.congr rfl rfl rfl rfl rfl)

theorem Moves.setRtc {g : State → State} {q : Option Nat} (hg : Moves i k g q) (x : RtcState) :
    Moves i k (fun t => g (t.setRtc x)) q :=
  fun c rem w h => hg c rem (w.setRtc x) (h.congr rfl rfl rfl rfl rfl)

theorem Moves.setConfigured {g : State → State} {q : Option Nat} (hg : Moves i k g q) (b : BitVec 2) :
    Moves i k (fun t => g (t.setConfigured b)) q :=
  fun c rem w h => hg c rem (w.setConfigured b) (h.congr rfl rfl rfl rfl rfl)

end

/-! ### What is still to come from a micro-step on -/

/-- Every run of `i` from `q` on that ends by `done` makes the polls of `plan` and takes `n` bytes into the cells from `a` on. Below
stands one rule for each kind of micro-step. -/
def Completes (c : Config) (i : Instr) (q : Option Nat) (rem : Byte) (init : BitVec 1) (plan : List Poll) (b : BitVec 2) (a n : Nat) :
    Prop := ∀ u t, At c i q rem u → Finishes i t u → Made c.pollLimit init 0 plan b a n u t

section
variable {c : Config} {i : Instr} {k : Nat} {q : Option Nat} {rem rem' : Byte} {init : BitVec 1} {plan : List Poll} {b : BitVec 2}
  {a n : Nat} {g : State → State}

theorem completes_done : Completes c i none rem init [] b a 0 := by
  intro u t hu hf
  obtain ⟨rfl, -⟩ := hf.of_idle (State.running_none.1 hu.running)
  exact made_nil

/-- One micro-step before what is still to come. -/
theorem Completes.step {init' : BitVec 1} {plan' : List Poll} {a' n' : Nat} (hnext : Completes c i q rem' init' plan' b a' n')
    (h : ∀ u, At c i (some k) rem u → NextHas (bodyOf i k u) fun v => At c i q rem' v ∧
      ∀ t, Made c.pollLimit init' 0 plan' b a' n' v t → Made c.pollLimit init 0 plan b a n u t) :
    Completes c i (some k) rem init plan b a n := by
  intro u t hu hf
  obtain ⟨v, hv, hf⟩ := hf.next hu.not_idle
  obtain ⟨hat, hmade⟩ := h u hu v (exec_running hu.running ▸ hv)
  exact hmade t (hnext v t hat hf)

theorem Completes.move (hg : Moves i k g q) (hb : ∀ u, At c i (some k) rem u → bodyOf i k u = .next (g u))
    (hnext : Completes c i q rem init plan b a n) : Completes c i (some k) rem init plan b a n := by
  refine hnext.step fun u hu => ?_
  rw [hb u hu, nextHas_next]
  obtain ⟨hat, htr, hbuf⟩ := hg c rem u hu
  exact ⟨hat, fun t => Made.move htr hbuf⟩

theorem Completes.setRem (hg : Moves i k g q) (hb : ∀ u, At c i (some k) rem u → bodyOf i k u = .next (g { u with rem := rem' }))
    (hnext : Completes c i q rem' init plan b a n) : Completes c i (some k) rem init plan b a n := by
  refine hnext.step fun u hu => ?_
  rw [hb u hu, nextHas_next]
  obtain ⟨hat, htr, hbuf⟩ := hg c rem' _ (hu.setRem rem')
  exact ⟨hat, fun t => Made.move htr hbuf⟩

theorem Completes.countDown (hg : Moves i k g q) (hb : ∀ u, bodyOf i k u = Machine.countDown g u)
    (hnext : Completes c i q (rem - 1) init plan b a n) : Completes c i (some k) rem init plan b a n := by
  refine hnext.step fun u hu => ?_
  rw [hb, Machine.countDown]
  split
  · simp
  · obtain ⟨hat, htr, hbuf⟩ := hg c (rem - 1) _ (hu.setRem (rem - 1))
    rw [nextHas_next, hu.rem]
    exact ⟨hat, fun t => Made.move htr hbuf⟩

/-- `w` is `u` after one event of this kind, at the same micro-step. -/
structure Emits (e : Event) (u w : State) : Prop where
  /-- The trace. -/
  tr : w.tr = u.tr ++ [e]
  /-- The position. -/
  pos : ∀ c i q rem, At c i q rem u → At c i q rem w
  /-- BUF. -/
  buf : w.buf = u.buf

theorem emits_of_eq {e : Event} {u w : State} (htr : w.tr = u.tr ++ [e] := by simp) (hc : w.cfg = u.cfg := by simp)
    (hs : w.seq = u.seq := by simp) (hl : w.lat = u.lat := by simp) (hr : w.rem = u.rem := by simp)
    (hp : w.polls = u.polls := by simp) (hbuf : w.buf = u.buf := by simp) : Emits e u w :=
  ⟨htr, fun _ _ _ _ h => h.congr hc hs hl hr hp, hbuf⟩

theorem emits_wrF (d : Dev) (f : Field) (v : Val) (u : State) : Emits (.wrF d f v) u (u.wrF d f v) := emits_of_eq

theorem emits_wrR (d : Dev) (r : Reg) (v : Val) (u : State) : Emits (.wrR d r v) u (u.wrR d r v) := emits_of_eq

theorem emits_rdWord (d : Dev) (r : Reg) (u : State) : Emits (.rdR d r (.word (u.regWord r))) u (u.rdWord d r) := emits_of_eq

/-- A micro-step that emits an event no poll and no byte count depends on; it may also fault or be refused. -/
theorem Completes.plain (hg : Moves i k g q)
    (hb : ∀ u, At c i (some k) rem u → NextHas (bodyOf i k u) fun v => ∃ e w, e.plain = true ∧ Emits e u w ∧ v = g w)
    (hnext : Completes c i q rem init plan b a n) : Completes c i (some k) rem init plan b a n := by
  refine hnext.step fun u hu v hv => ?_
  obtain ⟨e, w, he, hw, rfl⟩ := hb u hu v hv
  obtain ⟨hat, htr, hbuf⟩ := hg c rem w (hw.pos _ _ _ _ hu)
  exact ⟨hat, fun t => Made.plain he (htr.trans hw.tr) (hbuf.trans hw.buf)⟩

theorem Completes.wrF {d : Dev} {f : Field} {v : State → Val} (hg : Moves i k g q)
    (hb : ∀ u, bodyOf i k u = .next (g (u.wrF d f (v u)))) (hf : f ≠ .init) (hnext : Completes c i q rem init plan b a n) :
    Completes c i (some k) rem init plan b a n :=
  hnext.plain hg fun u _ => by
    rw [hb, nextHas_next]
    exact ⟨_, _, by simpa [Event.plain] using hf, emits_wrF d f (v u) u, rfl⟩

theorem Completes.wrR {d : Dev} {r : Reg} {v : State → Val} (hg : Moves i k g q)
    (hb : ∀ u, bodyOf i k u = .next (g (u.wrR d r (v u)))) (hnext : Completes c i q rem init plan b a n) :
    Completes c i (some k) rem init plan b a n :=
  hnext.plain hg fun u _ => by
    rw [hb, nextHas_next]
    exact ⟨_, _, rfl, emits_wrR d r (v u) u, rfl⟩

theorem Completes.rdWord {d : Dev} {r : Reg} (hg : Moves i k g q) (hb : ∀ u, bodyOf i k u = .next (g (u.rdWord d r)))
    (hr : r ≠ .dr) (hnext : Completes c i q rem init plan b a n) : Completes c i (some k) rem init plan b a n :=
  hnext.plain hg fun u _ => by
    rw [hb, nextHas_next]
    exact ⟨_, _, by simpa [Event.plain] using hr, emits_rdWord d r u, rfl⟩

theorem Completes.writeInit {x : BitVec 1} (hg : Moves i k g q) (hb : ∀ u, bodyOf i k u = .next (g (u.wrF .rtc .init (.bit x))))
    (hnext : Completes c i q rem x plan b a n) : Completes c i (some k) rem init plan b a n := by
  refine hnext.step fun u hu => ?_
  rw [hb, nextHas_next]
  obtain ⟨hat, htr, hbuf⟩ := hg c rem (u.wrF .rtc .init (.bit x)) (hu.congr rfl rfl rfl rfl rfl)
  exact ⟨hat, fun t => Made.writeInit x htr hbuf⟩

theorem Completes.takeByte (hg : Moves i k g q)
    (hb : ∀ u, At c i (some k) rem u →
      bodyOf i k u = .next (g { (u.rdDr (.i2c b)).writeBuf a u.drByte with rem := rem' }))
    (hnext : Completes c i q rem' init plan b (a + 1) n) : Completes c i (some k) rem init plan b a (n + 1) := by
  refine hnext.step fun u hu => ?_
  rw [hb u hu, nextHas_next]
  have hw : At c i (some k) rem ((u.rdDr (.i2c b)).writeBuf a u.drByte) := hu.congr rfl rfl rfl rfl rfl
  obtain ⟨hat, htr, hbuf⟩ := hg c rem' _ (hw.setRem rem')
  exact ⟨hat, fun t => Made.byte u.drByte htr hbuf⟩

/-- One poll, from any of its reads on: the first read begins it, a failed read leaves it in progress, and it ends with the
wanted value, since a timeout would not end by `done`. -/
theorem Finishes.made_of_poll {d : Dev} {f : Flag} {want : BitVec 1} (hg : Moves i k g q)
    (hb : ∀ u, bodyOf i k u = poll d f want g u) (hw : wantedOf init f = want) (hnext : Completes c i q rem init plan b a n)
    {u t : State} (h : Finishes i t u) : ∀ fails, u.cfg = c → u.running = some (i, k) → u.rem = rem →
      (∀ l, c.pollLimit = some l → u.polls = fails) →
      Made c.pollLimit init fails ((if fails = 0 then [(d, f, want)] else []) ++ plan) b a n u t := by
  induction h with
  | done hi => intro _ _ hr; simp [State.running_of_idle hi] at hr
  | @micro u v hu hv h ih =>
    intro fails hc hr hrem hp
    have hlimit : u.cfg.pollLimit = some (u.polls + 1) ↔ c.pollLimit = some (fails + 1) := by
      rw [hc]
      exact ⟨fun h => hp _ h ▸ h, fun h => (hp _ h).symm ▸ h⟩
    rw [exec_running hr, hb] at hv
    subst hw
    rcases poll_cases d f (wantedOf init f) g u with ⟨hf, e⟩ | ⟨-, -, e⟩ | ⟨hf, hl, e⟩
    · have hv := Host.Outcome.next.inj (hv.symm.trans e)
      rw [State.clearPolls_countPoll] at hv
      obtain ⟨hat, htr, hbuf⟩ := hg c rem (u.rdF d f).clearPolls ⟨hc, hr, hrem, rfl⟩
      rw [← hv] at hat htr hbuf
      refine Made.event (v := v) (e := .rdF d f (wantedOf init f)) (by simp [htr, hf]) (by simp [hbuf]) (by simp) ?_
      simpa [failsAfter, initAfter] using hnext v t hat h
    · have hv := Host.Outcome.next.inj (hv.symm.trans e)
      exact absurd (h.of_idle (hv ▸ rfl)).2 (by simp [hv, ErrKind.code])
    · have hv := Host.Outcome.next.inj (hv.symm.trans e)
      have hl' : c.pollLimit ≠ some (fails + 1) := mt hlimit.2 hl
      have hrest := ih (fails + 1) (by simpa [hv] using hc) ((State.running_congr (by simp [hv]) (by simp [hv])).trans hr)
        (by simpa [hv] using hrem) (fun l h => by simp [hv, State.countPoll, hc, h, hp l h])
      refine Made.event (v := v) (e := .rdF d f (u.flagBit f)) (by simp [hv]) (by simp [hv]) (by simp) ?_
      simpa [failsAfter, initAfter, hf, hl'] using hrest

theorem Completes.poll {d : Dev} {f : Flag} {want : BitVec 1} (hg : Moves i k g q)
    (hb : ∀ u, bodyOf i k u = Machine.poll d f want g u) (hw : wantedOf init f = want)
    (hnext : Completes c i q rem init plan b a n) : Completes c i (some k) rem init ((d, f, want) :: plan) b a n :=
  fun _ _ hu hf => hf.made_of_poll hg hb hw hnext 0 hu.cfg hu.running hu.rem fun _ _ => hu.polls

end

/-! ### The commands, from their first micro-step on -/

section
variable {c : Config} {i : Instr} {rem : Byte} {init : BitVec 1} {b : BitVec 2} {a : Nat}

theorem start_completes (b' : BitVec 2) : Completes c (.start b') (some 0) rem init [(.i2c b', .sb, 1)] b a 0 := by
  iterate 2 refine .wrF moves_advance (fun _ => rfl) (by decide) ?_
  exact .poll (moves_finish.setHeld b' true) (fun _ => rfl) rfl completes_done

theorem sendaddr_completes (b' : BitVec 2) (sel : Byte) :
    Completes c (.sendaddr b' sel) (some 0) rem init [(.i2c b', .addr, 1)] b a 0 := by
  refine .wrR moves_advance (fun _ => rfl) ?_
  refine .poll moves_advance (fun _ => rfl) rfl ?_
  refine .rdWord moves_advance (fun _ => rfl) (by decide) ?_
  exact .rdWord moves_finish (fun _ => rfl) (by decide) completes_done

theorem stop_completes (b' : BitVec 2) : Completes c (.stop b') (some 0) rem init [] b a 0 :=
  .wrF (moves_finish.setHeld b' false) (fun _ => rfl) (by decide) completes_done

theorem configure_completes (b' : BitVec 2) : Completes c (.configure b') (some 0) rem init [] b a 0 := by
  iterate 11 refine .wrF moves_advance (fun _ => rfl) (by decide) ?_
  exact .wrF (moves_finish.setConfigured b') (fun _ => rfl) (by decide) completes_done

theorem rtcinit_completes :
    Completes c .rtcinit (some 0) rem init [(.bdc, .lseRdy, 1), (.rtc, .initf, 1), (.rtc, .initf, 0)] b a 0 := by
  refine .wrF (moves_advance.setRtc .clockEnabling) (fun _ => rfl) (by decide) ?_
  iterate 2 refine .wrF moves_advance (fun _ => rfl) (by decide) ?_
  refine .poll moves_advance (fun _ => rfl) rfl ?_
  iterate 2 refine .wrF moves_advance (fun _ => rfl) (by decide) ?_
  refine .wrR moves_advance (fun _ => rfl) ?_
  refine .wrR (moves_advance.setRtc .writeUnlocked) (fun _ => rfl) ?_
  refine .writeInit moves_advance (fun _ => rfl) ?_
  refine .poll (moves_advance.setRtc .initMode) (fun _ => rfl) rfl ?_
  iterate 3 refine .wrF moves_advance (fun _ => rfl) (by decide) ?_
  refine .writeInit moves_advance (fun _ => rfl) ?_
  refine .poll (moves_advance.setRtc .writeUnlocked) (fun _ => rfl) rfl ?_
  refine .wrR (moves_advance.setRtc .writeLocked) (fun _ => rfl) ?_
  exact .wrF (moves_finish.setRtc .running) (fun _ => rfl) (by decide) completes_done

/-- S5, if it is not refused, writes TR. -/
theorem writeTime_emits (u : State) : NextHas (writeTime u) fun v => ∃ e w, e.plain = true ∧ Emits e u w ∧ v = w.advance := by
  unfold writeTime
  split
  · rename_i w _
    rw [nextHas_next]
    exact ⟨.wrR .rtc .tr (.word w), u.sampleSec.2.wrR .rtc .tr (.word w), rfl,
      emits_of_eq, rfl⟩
  · simp

theorem rtcset_completes : Completes c .rtcset (some 0) rem init [(.rtc, .initf, 1), (.rtc, .initf, 0)] b a 0 := by
  refine .wrF moves_advance (fun _ => rfl) (by decide) ?_
  refine .wrR moves_advance (fun _ => rfl) ?_
  refine .wrR (moves_advance.setRtc .writeUnlocked) (fun _ => rfl) ?_
  refine .writeInit moves_advance (fun _ => rfl) ?_
  refine .poll (moves_advance.setRtc .initMode) (fun _ => rfl) rfl ?_
  refine .plain moves_advance (fun u _ => writeTime_emits u) ?_
  refine .wrR moves_advance (fun _ => rfl) ?_
  refine .writeInit moves_advance (fun _ => rfl) ?_
  refine .poll (moves_advance.setRtc .writeUnlocked) (fun _ => rfl) rfl ?_
  exact .wrR ((moves_finish.setRtc .running).setRtc .writeLocked) (fun _ => rfl) completes_done

/-- Y1 reads TR. -/
theorem takeTime_emits (u : State) : Emits (.rdR .rtc .tr (.word (u.regWord .tr))) u u.takeTime := emits_of_eq

theorem rtcget_completes : Completes c .rtcget (some 0) rem init [(.rtc, .rsf, 1)] b a 0 := by
  refine .poll moves_advance (fun _ => rfl) rfl ?_
  refine .plain moves_advance (fun u _ => ?_) ?_
  · have hb : bodyOf .rtcget 1 u = .next u.takeTime.advance := rfl
    rw [hb, nextHas_next]
    exact ⟨_, _, rfl, takeTime_emits u, rfl⟩
  · exact .rdWord moves_finish (fun _ => rfl) (by decide) completes_done

/-! ### The data phase (40_i2c_master R106) -/

/-- W3, if it does not fault, writes some byte to DR. -/
theorem sendByte_emits (b' : BitVec 2) (off n : Byte) (u : State) :
    NextHas (sendByte b' off n u) fun v => ∃ e w, e.plain = true ∧ Emits e u w ∧ v = w.advance := by
  unfold sendByte
  split
  · rename_i j _
    rw [nextHas_next]
    exact ⟨.wrR (.i2c b') .dr (.byte (u.readBuf j).1), (u.readBuf j).2.wrR (.i2c b') .dr (.byte (u.readBuf j).1), rfl,
      emits_of_eq, rfl⟩
  · simp

/-- From W1 on with `r` bytes to go: `r` waits on TXE and one on BTF. -/
theorem dataLoop_completes {b' : BitVec 2} {off n : Byte} {base : Nat}
    (hb : ∀ k u, bodyOf i (base + k) u = dataPhase b' off n base k u) (r : Nat) (hr : rem.toNat = r) :
    Completes c i (some (base + 1)) rem init (List.replicate r (.i2c b', .txe, 1) ++ [(.i2c b', .btf, 1)]) b a 0 := by
  induction r generalizing rem with
  | zero =>
    have hz : rem = 0 := by bv_omega
    refine .move (moves_goto (base + 5)) (fun u hu => ?_) ?_
    · have hu0 : u.rem = 0 := hu.rem.trans hz
      simp [hb, dataPhase, hu0]
    · exact .poll moves_finish (hb 5) rfl completes_done
  | succ r ih =>
    have hz : rem ≠ 0 := by bv_omega
    refine .move moves_advance (fun u hu => ?_) ?_
    · have hu0 : ¬ u.rem = 0 := hu.rem ▸ hz
      simp only [hb, dataPhase, if_neg hu0]
    · refine .poll moves_advance (hb 2) rfl ?_
      refine .plain moves_advance (fun u _ => hb 3 u ▸ sendByte_emits b' off n u) ?_
      exact .countDown (moves_goto (base + 1)) (hb 4) (ih (by bv_omega))

theorem dataPhase_completes {b' : BitVec 2} (off : Byte) {n : Byte} {base : Nat}
    (hb : ∀ k u, bodyOf i (base + k) u = dataPhase b' off n base k u) :
    Completes c i (some base) rem init (List.replicate n.toNat (.i2c b', .txe, 1) ++ [(.i2c b', .btf, 1)]) b a 0 :=
  .setRem moves_advance (fun u _ => hb 0 u) (dataLoop_completes hb n.toNat rfl)

theorem wrdata_completes (b' : BitVec 2) (off n : Byte) :
    Completes c (.wrdata b' off n) (some 0) rem init (List.replicate n.toNat (.i2c b', .txe, 1) ++ [(.i2c b', .btf, 1)]) b a 0 :=
  dataPhase_completes off fun k u => by rw [Nat.zero_add]; rfl

theorem write_completes (b' : BitVec 2) (addr off n : Byte) :
    Completes c (.write b' addr off n) (some 0) rem init
      ((.i2c b', .sb, 1) :: (.i2c b', .addr, 1) :: (List.replicate n.toNat (.i2c b', .txe, 1) ++ [(.i2c b', .btf, 1)])) b a 0 := by
  iterate 2 refine .wrF moves_advance (fun _ => rfl) (by decide) ?_
  refine .poll (moves_advance.setHeld b' true) (fun _ => rfl) rfl ?_
  refine .wrR moves_advance (fun _ => rfl) ?_
  refine .poll moves_advance (fun _ => rfl) rfl ?_
  iterate 2 refine .rdWord moves_advance (fun _ => rfl) (by decide) ?_
  refine dataPhase_completes off fun k u => ?_
  have h3 : ¬ 7 + k < 3 := by omega
  have h7 : ¬ 7 + k < 7 := by omega
  simp [bodyOf, writeStep, h3, h7]

/-! ### READ (40_i2c_master R108 to R111) -/

theorem readOne_completes (b : BitVec 2) (addr off : Byte) :
    Completes c (.read b addr off 1) (some 0) rem init [(.i2c b, .addr, 1), (.i2c b, .rxne, 1)] b off.toNat 1 := by
  refine .wrR moves_advance (fun _ => rfl) ?_
  refine .poll moves_advance (fun _ => rfl) rfl ?_
  iterate 2 refine .wrF moves_advance (fun _ => rfl) (by decide) ?_
  iterate 2 refine .rdWord moves_advance (fun _ => rfl) (by decide) ?_
  refine .wrF (moves_advance.setHeld b false) (fun _ => rfl) (by decide) ?_
  refine .poll moves_advance (fun _ => rfl) rfl ?_
  exact .takeByte (rem' := 0) moves_finish (fun _ _ => rfl) completes_done

theorem takeByte_eq {b : BitVec 2} {off n rem : Byte} {a : Nat} {u : State} (hu : u.rem = rem) (h1 : 1 ≤ rem.toNat)
    (h2 : rem.toNat ≤ n.toNat) (ha : a + rem.toNat = off.toNat + n.toNat) :
    takeByte b off n u = .next (State.advance { (u.rdDr (.i2c b)).writeBuf a u.drByte with rem := rem }) := by
  have hi : off.toNat + n.toNat - rem.toNat = a := by omega
  subst hu
  simp only [takeByte, bufIndex, h1, h2, and_self, if_true, hi]
  rfl

section
variable {b : BitVec 2} {addr off n : Byte}

theorem bodyOf_read_many (hn : n ≠ 1) (k : Nat) (u : State) :
    bodyOf (.read b addr off n) k u = readMany b addr off n (readManyIndex u.cfg.rdAddrAll k) u := if_neg hn

theorem bodyOf_read_many_succ (hn : n ≠ 1) (k : Nat) (u : State) :
    bodyOf (.read b addr off n) (k + 1) u = readMany b addr off n (k + 1) u := by
  rw [bodyOf_read_many hn]
  simp [readManyIndex]

/-- From G10 on, with two bytes to go. -/
theorem readLastTwo_completes (hn : n ≠ 1) (hrem : rem = 2) (hle : rem.toNat ≤ n.toNat) (ha : a + rem.toNat = off.toNat + n.toNat) :
    Completes c (.read b addr off n) (some 10) rem init [(.i2c b, .rxne, 1), (.i2c b, .rxne, 1)] b a 2 := by
  have hbody := bodyOf_read_many_succ (b := b) (addr := addr) (off := off) hn
  refine .poll moves_advance (hbody 9) rfl ?_
  refine .takeByte moves_advance (fun u hu => (hbody 10 u).trans (takeByte_eq hu.rem (by bv_omega) hle ha)) ?_
  refine .wrF moves_advance (hbody 11) (by decide) ?_
  refine .wrF (moves_advance.setHeld b false) (hbody 12) (by decide) ?_
  refine .countDown moves_advance (hbody 13) ?_
  refine .poll moves_advance (hbody 14) rfl ?_
  refine .takeByte moves_advance
    (fun u hu => (hbody 15 u).trans (takeByte_eq hu.rem (by bv_omega) (by bv_omega) (by bv_omega))) ?_
  exact .countDown moves_finish (hbody 16) completes_done

/-- From G5 on, with `r + 2` bytes to go. -/
theorem readLoop_completes (hn : n ≠ 1) (r : Nat) (hr : rem.toNat = r + 2) (hle : rem.toNat ≤ n.toNat)
    (ha : a + rem.toNat = off.toNat + n.toNat) :
    Completes c (.read b addr off n) (some 5) rem init (List.replicate (r + 2) (.i2c b, .rxne, 1)) b a (r + 2) := by
  have hbody := bodyOf_read_many_succ (b := b) (addr := addr) (off := off) hn
  induction r generalizing rem a with
  | zero =>
    refine .move (moves_goto 10) (fun u hu => ?_) (readLastTwo_completes hn (by bv_omega) hle ha)
    have hle2 : u.rem.toNat ≤ 2 := by rw [hu.rem]; omega
    simp only [hbody 4, readMany, if_pos hle2]
  | succ r ih =>
    refine .move moves_advance (fun u hu => ?_) ?_
    · have hgt : ¬ u.rem.toNat ≤ 2 := by rw [hu.rem]; omega
      simp only [hbody 4, readMany, if_neg hgt]
    · refine .poll moves_advance (hbody 5) rfl ?_
      refine .takeByte moves_advance (fun u hu => (hbody 6 u).trans (takeByte_eq hu.rem (by omega) hle ha)) ?_
      refine .wrF moves_advance (hbody 7) (by decide) ?_
      exact .countDown (moves_goto 5) (hbody 8) (ih (by bv_omega) (by bv_omega) (by bv_omega))

theorem readMany_completes (hn : 2 ≤ n.toNat) :
    Completes c (.read b addr off n) (some 0) rem init
      ((if c.rdAddrAll then [(.i2c b, .addr, 1)] else []) ++ List.replicate n.toNat (.i2c b, .rxne, 1)) b off.toNat n.toNat := by
  have hn1 : n ≠ 1 := by bv_omega
  have hbody := bodyOf_read_many_succ (b := b) (addr := addr) (off := off) hn1
  obtain ⟨r, hr⟩ : ∃ r, n.toNat = r + 2 := ⟨n.toNat - 2, by omega⟩
  have hloop : Completes c (.read b addr off n) (some 5) n init (List.replicate n.toNat (.i2c b, .rxne, 1)) b off.toNat n.toNat := by
    rw [hr]
    exact readLoop_completes hn1 r hr le_rfl rfl
  cases hall : c.rdAddrAll with
  | false =>
    refine .setRem (rem' := n) (moves_goto 5) (fun u hu => ?_) hloop
    have hcfg : u.cfg.rdAddrAll = false := hu.cfg.symm ▸ hall
    simp [bodyOf_read_many hn1, hcfg, readManyIndex, readMany]
  | true =>
    refine .plain moves_advance (fun u hu => ?_) ?_
    · have hcfg : u.cfg.rdAddrAll = true := hu.cfg.symm ▸ hall
      simp only [bodyOf_read_many hn1, hcfg, readManyIndex, readMany, addrPhase]
      exact (nextHas_next _ _).2 ⟨.wrR (.i2c b) .dr (.byte (selRead addr)), _, rfl, emits_wrR _ _ _ u, rfl⟩
    · refine .poll moves_advance (hbody 0) rfl ?_
      iterate 2 refine .rdWord moves_advance (hbody _) (by decide) ?_
      exact .setRem (moves_goto 5) (fun u _ => hbody 3 u) hloop

end

/-! ### Every command -/

/-- The polls of a command, in the order of its micro-step list. -/
def pollPlan (rdAddrAll : Bool) : Instr → List Poll
  | .configure _ => []
  | .start b => [(.i2c b, .sb, 1)]
  | .sendaddr b _ => [(.i2c b, .addr, 1)]
  | .write b _ _ n =>
    (.i2c b, .sb, 1) :: (.i2c b, .addr, 1) :: (List.replicate n.toNat (.i2c b, .txe, 1) ++ [(.i2c b, .btf, 1)])
  | .wrdata b _ n => List.replicate n.toNat (.i2c b, .txe, 1) ++ [(.i2c b, .btf, 1)]
  | .read b _ _ n => (if n = 1 ∨ rdAddrAll then [(.i2c b, .addr, 1)] else []) ++ List.replicate n.toNat (.i2c b, .rxne, 1)
  | .stop _ => []
  | .rtcinit => [(.bdc, .lseRdy, 1), (.rtc, .initf, 1), (.rtc, .initf, 0)]
  | .rtcset => [(.rtc, .initf, 1), (.rtc, .initf, 0)]
  | .rtcget => [(.rtc, .rsf, 1)]

/-- How many bytes a command takes into BUF. -/
def bytesTaken : Instr → Nat
  | .read _ _ _ n => n.toNat
  | _ => 0

theorem completes (hz : countIsZero i = false) :
    Completes c i (some 0) rem init (pollPlan c.rdAddrAll i) (latOf i).b (latOf i).off.toNat (bytesTaken i) := by
  cases i with
  | configure b => exact configure_completes b
  | start b => exact start_completes b
  | sendaddr b sel => exact sendaddr_completes b sel
  | write b addr off n => exact write_completes b addr off n
  | wrdata b off n => exact wrdata_completes b off n
  | read b addr off n =>
    have hn : n ≠ 0 := by simpa [countIsZero] using hz
    by_cases h1 : n = 1
    · subst h1
      simpa [pollPlan, bytesTaken, latOf] using readOne_completes b addr off
    · simp only [pollPlan, h1, false_or]
      exact readMany_completes (by bv_omega)
  | stop b => exact stop_completes b
  | rtcinit => exact rtcinit_completes
  | rtcset => exact rtcset_completes
  | rtcget => exact rtcget_completes

end

/-- A byte count of 0 does not get past the gate (30_encoding R76). -/
theorem countIsZero_of_gateOf_none {i : Instr} {s : State} (h : gateOf i s = none) : countIsZero i = false := by
  cases i with
  | write b addr off n => simpa [gateOf, countGate, countIsZero] using h
  | wrdata b off n => simpa [gateOf, countGate, countIsZero] using h
  | read b addr off n => simpa [gateOf, countGate, countIsZero] using h
  | _ => rfl

/-- A command presented while idle that is not refused or rejected by a check starts at its first micro-step; one that a check
rejects is idle with a code. -/
theorem exec_idle_starts {i : Instr} {s : State} (hs : s.seq = .idle) :
    NextHas (exec i s) fun u => (u.seq = .idle ∧ u.err ≠ 0) ∨
      (countIsZero i = false ∧ At s.cfg i (some 0) s.rem u ∧ u.tr = s.tr ∧ u.buf = s.buf) := by
  rw [exec_idle hs]
  have hcode : ∀ k : ErrKind, k.code ≠ 0 := by intro k; cases k <;> decide
  refine nextHas_accept (fun _ => .inl ⟨rfl, hcode .illegalCommand⟩) (fun k _ _ => .inl ⟨rfl, hcode k⟩) fun _ _ hg => .inr ?_
  have hinstr : instrOf (cmdOf i) (latOf i) = i := by cases i <;> rfl
  refine ⟨countIsZero_of_gateOf_none hg, ⟨rfl, ?_, rfl, rfl⟩, rfl, rfl⟩
  exact (State.running_of_run (k := 0) rfl).trans (by rw [State.begin_lat, State.latch_lat, hinstr]; rfl)

/-- Over any environment, a command that ends by `done` has made the polls of its plan, in order, and READ has taken its bytes. -/
theorem Ends.made {i : Instr} {m : Nat} {s t : State} (hs : s.seq = .idle) (h : Ends i m s t) (he : t.err = 0) :
    Made s.cfg.pollLimit 0 0 (pollPlan s.cfg.rdAddrAll i) (latOf i).b (latOf i).off.toNat (bytesTaken i) s t := by
  obtain ⟨u, hu, hf⟩ := h.finishes he
  rcases exec_idle_starts hs u hu with ⟨hidle, hne⟩ | ⟨hz, hat, htr, hbuf⟩
  · exact absurd (hf.of_idle hidle).2 hne
  · exact (completes hz u t hat hf).move htr hbuf

/-- Settles O60: the waits are counted in the list of the polls made, which is the command's plan. -/
theorem waitsAndBytesOverAnyEnvironment : Obligations.WaitsAndBytesOverAnyEnvironment := by
  intro i m s t hs hends he
  obtain ⟨es, bytes, htr, hplan, hlen, hrx, hbuf⟩ := hends.made hs he
  have hcount : ∀ d f want, waits s.cfg.pollLimit d f want es = (pollPlan s.cfg.rdAddrAll i).count (d, f, want) :=
    fun d f want => by rw [waits, waitsFrom_eq_count, hplan]
  refine ⟨es, htr, ?_⟩
  simp only [hcount]
  refine ⟨?_, ?_, ?_, ?_, ?_, ?_, ?_, ?_⟩
  · rintro b rfl; simp [pollPlan]
  · rintro b sel rfl; simp [pollPlan]
  · rintro b addr off n rfl; simp [pollPlan, List.count_replicate]
  · rintro b off n rfl; simp [pollPlan, List.count_replicate]
  · rintro b addr off n rfl
    refine ⟨?_, ?_, bytes, hlen, hrx, hbuf⟩
    · simp only [pollPlan]; split <;> simp [List.count_replicate]
    · simp only [pollPlan]; split <;> simp
  · rintro rfl; simp [pollPlan]
  · rintro rfl; simp [pollPlan]
  · rintro rfl; simp [pollPlan]

end Sys2Proof.Machine
end

section
/-! What every call of `exec` does to the state the invariant speaks of, said once: the events, the register record, `held`, BUF,
the code, and the position. The statements about 10_state are read off from it. -/

namespace Sys2Proof.Machine

/-! ### The events of a command -/

/-- The bus handle of a device. -/
def Dev.bus? : Dev → Option (BitVec 2)
  | .i2c b => some b
  | .plat b => some b
  | .rcc => none
  | .pwr => none
  | .bdc => none
  | .rtc => none

/-- The kind of device that has the name. -/
def RiName.kind : RiName → DevKind
  | .flag _ f => f.kind
  | .field _ f => f.kind
  | .reg _ r => r.kind

/-- START, STOP, POS and PE are written 1; BKP_WR_EN is written 1, or 0 by RTCINIT (10_state R36, 41_rtc_sequencer R145). -/
def Event.writesOne (i : Instr) : Event → Bool
  | .wrF _ .start v => v == .bit 1
  | .wrF _ .stop v => v == .bit 1
  | .wrF _ .pos v => v == .bit 1
  | .wrF _ .pe v => v == .bit 1
  | .wrF _ .bkpWrEn v => v == .bit 1 || (i == .rtcinit && v == .bit 0)
  | _ => true

/-- An event that `i` may emit: on its own bus, on a name that the device has, with a value of its kind. -/
structure Event.Of (i : Instr) (e : Event) : Prop where
  /-- The device is one of the command's own bus, or of no bus for an RTC command (30_encoding R71). -/
  bus : e.name.dev.bus? = i.bus?
  /-- The device has the name (20_memory R51). -/
  kind : e.name.dev.kind = e.name.kind
  /-- The value has the kind of the name (20_memory R61). -/
  fits : e.name.fits e.val = true
  /-- The fields that are only written 1. -/
  ones : e.writesOne i = true

theorem RiName.present_eq (nBus : Nat) (n : RiName) :
    n.present nBus = (n.dev.kind == n.kind && n.dev.bus?.all fun b => decide (b.toNat < nBus)) := by
  cases n with
  | flag d f => cases d <;> rfl
  | field d f => cases d <;> rfl
  | reg d r => cases d <;> rfl

theorem Instr.wf_eq (nBus : Nat) (i : Instr) : i.wf nBus = i.bus?.all fun b => decide (b.toNat < nBus) := by
  unfold Instr.wf
  cases i.bus? <;> rfl

/-- The events of a command whose bus exists are accesses the Register Interface has (20_memory R51). -/
theorem Event.Of.wf {i : Instr} {e : Event} {nBus : Nat} (he : e.Of i) (hi : i.wf nBus = true) : e.wf nBus = true := by
  rw [Event.wf, RiName.present_eq, he.bus, ← Instr.wf_eq, hi, he.kind, he.fits]
  simp

/-- The events that can change `held`: a read of SB and a write to STOP (10_state R34). -/
def Event.movesHeld : Event → Bool
  | .rdF _ .sb _ => true
  | .wrF _ .stop _ => true
  | _ => false

theorem heldAfter_of_not_movesHeld {e : Event} (h : e.movesHeld = false) (c : BitVec 2) (was : Bool) :
    heldAfter c was e = was := by
  have hsb : e ≠ .rdF (.i2c c) .sb 1 := by rintro rfl; cases h
  have hstop : e ≠ .wrF (.i2c c) .stop (.bit 1) := by rintro rfl; cases h
  rw [heldAfter, if_neg hsb, if_neg hstop]

/-! ### Events, `held` and BUF from one state to the next -/

/-- The cell that a micro-step of `i` may write (20_memory R67). -/
def bufCell : Instr → Byte → Option Nat
  | .read _ _ off n, rem => if n = 1 then some off.toNat else bufIndex off n rem
  | _, _ => none

theorem bufCell_lt {i : Instr} {rem : Byte} {a : Nat} (h : bufCell i rem = some a) : a < Config.bufSize := by
  cases i with
  | read b addr off n =>
    simp only [bufCell] at h
    split at h
    · have := off.isLt
      simp only [Option.some.injEq] at h
      unfold Config.bufSize
      omega
    · exact bufIndex_lt h
  | _ => cases h

/-- From `s` to `t` events of `i` are emitted and recorded, `held` follows them, at most the cell of `i` is written, and the
configuration stays. -/
structure Does (i : Instr) (s t : State) : Prop where
  /-- The configuration (00_scope R7). -/
  cfg : t.cfg = s.cfg
  /-- BUF (10_state R27). -/
  buf : t.buf = s.buf ∨ ∃ a v, bufCell i s.rem = some a ∧ t.buf = Memory.set s.buf a v
  /-- The trace, the Register Interface record, and `held` (10_state R20, R34, 20_memory R50). -/
  events : ∃ es : List Event, (∀ e ∈ es, e.Of i) ∧ t.tr = s.tr ++ es ∧ t.ri = record s.ri es ∧
    ∀ c, busGet t.held c = es.foldl (heldAfter c) (busGet s.held c)

theorem does_nothing {i : Instr} {s t : State} (hcfg : t.cfg = s.cfg) (hbuf : t.buf = s.buf) (htr : t.tr = s.tr)
    (hri : t.ri = s.ri) (hheld : t.held = s.held) : Does i s t :=
  ⟨hcfg, .inl hbuf, [], by simp, by simpa using htr, by simpa using hri, by simp [hheld]⟩

/-- `w` is `s` after the work of a micro-step of `i`, before the sequencer moves on. -/
structure Acts (i : Instr) (s w : State) : Prop extends Does i s w where
  /-- The sequencer has not moved. -/
  seq : w.seq = s.seq
  /-- The operands stay latched. -/
  lat : w.lat = s.lat
  /-- STATUS.ERR. -/
  err : w.err = s.err
  /-- A poll that ends clears its count. -/
  polls : w.polls ≤ s.polls

section
variable {i : Instr} {s w : State}

theorem acts_nothing : Acts i s s := ⟨does_nothing rfl rfl rfl rfl rfl, rfl, rfl, rfl, le_rfl⟩

/-- One event, and `held` as it says. -/
theorem acts_event {e : Event} {v : Vector Bool 4} (he : e.Of i) (hw : StepTo { s with held := v } w [e] s.seq)
    (hv : ∀ c, busGet v c = heldAfter c (busGet s.held c) e) : Acts i s w := by
  rw [hw]
  exact ⟨⟨rfl, .inl rfl, [e], by simpa using he, rfl, rfl, hv⟩, rfl, rfl, rfl, le_rfl⟩

/-- One event that does not concern `held`. -/
theorem acts_plain {e : Event} (he : e.Of i) (hm : e.movesHeld = false) (hw : StepTo s w [e] s.seq) : Acts i s w :=
  acts_event he hw fun c => (heldAfter_of_not_movesHeld hm c _).symm

theorem acts_rdF {d : Dev} {f : Flag} (he : (Event.rdF d f (s.flagBit f)).Of i)
    (hm : (Event.rdF d f (s.flagBit f)).movesHeld = false) : Acts i s (s.rdF d f) := acts_plain he hm rfl

theorem Acts.setRem (h : Acts i s w) (r : Byte) : Acts i s { w with rem := r } :=
  ⟨⟨h.cfg, h.buf, h.events⟩, h.seq, h.lat, h.err, h.polls⟩

theorem Acts.clearPolls (h : Acts i s w) : Acts i s w.clearPolls :=
  ⟨⟨h.cfg, h.buf, h.events⟩, h.seq, h.lat, h.err, Nat.zero_le _⟩

theorem Acts.writeTrec (h : Acts i s w) (f : TField) (v : Byte) : Acts i s (w.writeTrec f v) :=
  ⟨⟨h.cfg, h.buf, h.events⟩, h.seq, h.lat, h.err, h.polls⟩

theorem Acts.writeBuf (h : Acts i s w) (hbuf : w.buf = s.buf) {a : Nat} (ha : bufCell i s.rem = some a) (v : Byte) :
    Acts i s (w.writeBuf a v) :=
  ⟨⟨h.cfg, .inr ⟨a, v, ha, by simp [hbuf]⟩, h.events⟩, h.seq, h.lat, h.err, h.polls⟩

end

/-- The STOP write clears `held` of its bus alone (10_state R34). -/
theorem acts_requestStop {i : Instr} {b : BitVec 2} (hb : i.bus? = some b) (s : State) : Acts i s (s.requestStop b) := by
  refine acts_event (e := .wrF (.i2c b) .stop (.bit 1)) (v := busSet s.held b false) ⟨hb.symm, rfl, rfl, rfl⟩ rfl fun c => ?_
  rw [busGet_busSet]
  obtain rfl | hc := eq_or_ne c b
  · simp [heldAfter]
  · simp [heldAfter, hc, hc.symm]

/-- SB read as 1 sets `held` of its bus alone (10_state R34). -/
theorem acts_startSent {i : Instr} {b : BitVec 2} (hb : i.bus? = some b) {s : State} (hs : s.flagBit .sb = 1) :
    Acts i s ((s.rdF (.i2c b) .sb).setHeld b true) := by
  refine acts_event (e := .rdF (.i2c b) .sb (s.flagBit .sb)) (v := busSet s.held b true) ⟨hb.symm, rfl, rfl, rfl⟩ rfl
    fun c => ?_
  rw [busGet_busSet, hs]
  obtain rfl | hc := eq_or_ne c b
  · simp [heldAfter]
  · simp [heldAfter, hc, hc.symm]

/-! ### Positions -/

/-- `i` is at micro-step `k`, legal, with STATUS.ERR 0, and a poll in progress is below POLL_LIMIT. -/
structure RunsAt (i : Instr) (k : Nat) (s : State) : Prop where
  /-- The sequencer (10_state R21). -/
  seq : s.seq = .run (cmdOf i) k
  /-- The latched operands (R24). -/
  instr : instrOf (cmdOf i) s.lat = i
  /-- The bus handle. -/
  wf : i.wf s.cfg.nBus = true
  /-- The byte count. -/
  count : countIsZero i = false
  /-- STATUS.ERR (R26). -/
  err : s.err = 0
  /-- The reads of a poll in progress (20_memory R56). -/
  polls : ∀ l, s.cfg.pollLimit = some l → s.polls < l

/-- `k` is a micro-step of `i`, at which `rem` may stand as it does (10_state R22, R23). -/
def LegalAt (i : Instr) (k : Nat) (rem : Byte) : Prop :=
  k < stepCount (cmdOf i) (latOf i).cnt ∧ remOk (cmdOf i) (latOf i).cnt rem k = true

/-- Only the count of a command that has one bears on its positions. -/
theorem legalAt_instrOf (c : Cmd) (l : Lat) (k : Nat) (rem : Byte) :
    LegalAt (instrOf c l) k rem ↔ k < stepCount c l.cnt ∧ remOk c l.cnt rem k = true := by
  cases c <;> exact Iff.rfl

theorem seqOk_of_idle {s : State} (h : s.seq = .idle) : seqOk s := by simp [seqOk, h]

/-- The invariant's clause on a running command, in terms of the instruction that runs. -/
theorem seqOk_iff {i : Instr} {k : Nat} {s : State} (hs : s.seq = .run (cmdOf i) k) (hi : instrOf (cmdOf i) s.lat = i) :
    seqOk s ↔ RunsAt i k s ∧ LegalAt i k s.rem := by
  have hl := legalAt_instrOf (cmdOf i) s.lat k s.rem
  rw [hi] at hl
  simp only [seqOk, hs, hi]
  constructor
  · rintro ⟨hk, hwf, hcount, hrem, herr, hpolls⟩
    exact ⟨⟨hs, hi, hwf, hcount, herr, hpolls⟩, hl.2 ⟨hk, hrem⟩⟩
  · rintro ⟨h, hlegal⟩
    exact ⟨(hl.1 hlegal).1, h.wf, h.count, (hl.1 hlegal).2, h.err, h.polls⟩

/-- The position reached, if the command goes on, is one at which `rem` may stand as it does. -/
def Reaches (i : Instr) (q : Option Nat) (rem : Byte) : Prop :=
  match q with
  | none => True
  | some j => LegalAt i j rem

/-- `g` leads the sequencer from micro-step `k` on to `q`, and changes nothing else the invariant speaks of. -/
structure Onward (i : Instr) (k : Nat) (g : State → State) (q : Option Nat) : Prop where
  /-- The sequencer's move. -/
  seq : ∀ w, w.seq = .run (cmdOf i) k → (g w).seq = q.elim .idle (Seq.run (cmdOf i))
  /-- What the invariant says of the sequencer. -/
  same : ∀ w, (g w).cfg = w.cfg ∧ (g w).lat = w.lat ∧ (g w).err = w.err ∧ (g w).polls = w.polls ∧ (g w).rem = w.rem
  /-- What it says of the rest. -/
  quiet : ∀ w, (g w).buf = w.buf ∧ (g w).tr = w.tr ∧ (g w).ri = w.ri ∧ (g w).held = w.held

section
variable {i : Instr} {k : Nat}

theorem onward_advance : Onward i k State.advance (some (k + 1)) :=
  ⟨fun _ h => State.advance_seq_of h, fun _ => by simp, fun _ => by simp⟩

theorem onward_goto (j : Nat) : Onward i k (State.goto j) (some j) :=
  ⟨fun _ h => State.goto_seq_of h, fun _ => by simp, fun _ => by simp⟩

theorem onward_finish : Onward i k State.finish none := ⟨fun _ _ => rfl, fun _ => by simp, fun _ => by simp⟩

theorem Onward.setRtc {g : State → State} {q : Option Nat} (h : Onward i k g q) (x : RtcState) :
    Onward i k (fun w => g (w.setRtc x)) q :=
  ⟨fun w => h.seq (w.setRtc x), fun w => h.same (w.setRtc x), fun w => h.quiet (w.setRtc x)⟩

theorem Onward.setConfigured {g : State → State} {q : Option Nat} (h : Onward i k g q) (b : BitVec 2) :
    Onward i k (fun w => g (w.setConfigured b)) q :=
  ⟨fun w => h.seq (w.setConfigured b), fun w => h.same (w.setConfigured b), fun w => h.quiet (w.setConfigured b)⟩

end

/-! ### One micro-step -/

/-- What a micro-step of `i` at `k` leads to: the code changes only by a timeout, and a legal position is kept. -/
structure Micro (i : Instr) (k : Nat) (s t : State) : Prop extends Does i s t where
  /-- STATUS.ERR, and BusTimeout (60_exceptions R185). -/
  err : t.err = s.err ∨ (s.cfg.pollLimit ≠ none ∧ t.err = 1)
  /-- The position. -/
  pos : RunsAt i k s → LegalAt i k s.rem → seqOk t

section
variable {i : Instr} {k : Nat} {s w : State} {g : State → State} {q : Option Nat}

/-- The work of a micro-step, then on to `q`. -/
theorem micro_onward (hw : Acts i s w) (hg : Onward i k g q)
    (hq : countIsZero i = false → LegalAt i k s.rem → Reaches i q w.rem) : Micro i k s (g w) := by
  obtain ⟨hcfg, hlat, herr, hpolls, hrem⟩ := hg.same w
  obtain ⟨hbuf, htr, hri, hheld⟩ := hg.quiet w
  have hdoes : Does i s (g w) := ⟨hcfg.trans hw.cfg, hbuf ▸ hw.buf, by rw [htr, hri, hheld]; exact hw.events⟩
  refine ⟨hdoes, .inl (herr.trans hw.err), fun h hk => ?_⟩
  have hseq := hg.seq w (hw.seq.trans h.seq)
  cases q with
  | none => exact seqOk_of_idle hseq
  | some j =>
    have hi : instrOf (cmdOf i) (g w).lat = i := by rw [hlat, hw.lat, h.instr]
    refine (seqOk_iff hseq hi).2 ⟨⟨hseq, hi, ?_, h.count, ?_, fun l hl => ?_⟩, hrem ▸ hq h.count hk⟩
    · rw [hcfg, hw.cfg, h.wf]
    · rw [herr, hw.err, h.err]
    · rw [hcfg, hw.cfg] at hl
      rw [hpolls]
      exact Nat.lt_of_le_of_lt hw.polls (h.polls l hl)

theorem micro_next (hw : Acts i s w) (hg : Onward i k g q)
    (hq : countIsZero i = false → LegalAt i k s.rem → Reaches i q w.rem) : NextHas (.next (g w)) (Micro i k s) :=
  (nextHas_next _ _).2 (micro_onward hw hg hq)

/-- An event that does not concern `held`, then on to `q`. -/
theorem micro_event {e : Event} (hg : Onward i k g q) (hw : StepTo s w [e] s.seq) (he : e.Of i) (hm : e.movesHeld = false)
    (hq : countIsZero i = false → LegalAt i k s.rem → Reaches i q s.rem) : NextHas (.next (g w)) (Micro i k s) :=
  micro_next (acts_plain he hm hw) hg (by rw [hw]; exact hq)

theorem micro_wrF {d : Dev} {f : Field} {v : Val} (hg : Onward i k g q) (he : (Event.wrF d f v).Of i)
    (hm : (Event.wrF d f v).movesHeld = false) (hq : countIsZero i = false → LegalAt i k s.rem → Reaches i q s.rem) :
    NextHas (.next (g (s.wrF d f v))) (Micro i k s) := micro_event hg rfl he hm hq

theorem micro_wrR {d : Dev} {r : Reg} {v : Val} (hg : Onward i k g q) (he : (Event.wrR d r v).Of i)
    (hq : countIsZero i = false → LegalAt i k s.rem → Reaches i q s.rem) :
    NextHas (.next (g (s.wrR d r v))) (Micro i k s) := micro_event hg rfl he rfl hq

theorem micro_rdWord {d : Dev} {r : Reg} (hg : Onward i k g q) (he : (Event.rdR d r (.word (s.regWord r))).Of i)
    (hq : countIsZero i = false → LegalAt i k s.rem → Reaches i q s.rem) :
    NextHas (.next (g (s.rdWord d r))) (Micro i k s) := micro_event hg rfl he rfl hq

/-- `rem` as given, then on to `q`. -/
theorem micro_setRem {r : Byte} (hg : Onward i k g q) (hq : countIsZero i = false → LegalAt i k s.rem → Reaches i q r) :
    NextHas (.next (g { s with rem := r })) (Micro i k s) :=
  micro_next (acts_nothing.setRem r) hg hq

theorem micro_countDown (hg : Onward i k g q)
    (hq : countIsZero i = false → LegalAt i k s.rem → s.rem ≠ 0 → Reaches i q (s.rem - 1)) :
    NextHas (countDown g s) (Micro i k s) := by
  unfold countDown
  split
  · simp
  · rename_i hne
    exact micro_setRem hg fun hz hl => hq hz hl hne

theorem RunsAt.waits {d : Dev} {f : Flag} (h : RunsAt i k s) (hl : s.cfg.pollLimit ≠ some (s.polls + 1)) :
    RunsAt i k (s.rdF d f).countPoll := by
  refine ⟨by simpa using h.seq, by simpa using h.instr, by simpa using h.wf, h.count, by simpa using h.err, fun l hlim => ?_⟩
  have hcfg : s.cfg.pollLimit = some l := by simpa using hlim
  have hlt := h.polls l hcfg
  have hne : l ≠ s.polls + 1 := fun e => hl (e ▸ hcfg)
  simp only [State.countPoll, State.rdF_cfg, hcfg, State.rdF_polls]
  omega

/-- One read of a poll: if it fails, the poll stays in place below POLL_LIMIT, or times out (20_memory R56). -/
theorem micro_poll {d : Dev} {f : Flag} {want : BitVec 1} (he : ∀ v, (Event.rdF d f v).Of i)
    (hdone : s.flagBit f = want → Micro i k s (g (s.rdF d f).clearPolls))
    (hfail : s.flagBit f ≠ want → ∀ c was, heldAfter c was (.rdF d f (s.flagBit f)) = was) :
    NextHas (poll d f want g s) (Micro i k s) := by
  have hread : s.flagBit f ≠ want → Acts i s (s.rdF d f) := fun hne =>
    acts_event (he _) rfl fun c => (hfail hne c _).symm
  have hdoes : s.flagBit f ≠ want → Does i s (s.rdF d f).countPoll := fun hne => by
    exact ⟨by simp, by simp, by simpa using (hread hne).events⟩
  refine nextHas_poll (fun h => by rw [State.clearPolls_countPoll]; exact hdone h) (fun hne hl => ?_) fun hne hl => ?_
  · have ⟨hcfg, hbuf, hev⟩ := hdoes hne
    exact ⟨⟨hcfg, hbuf, hev⟩, .inr ⟨by simp [hl], rfl⟩, fun _ _ => seqOk_of_idle rfl⟩
  · refine ⟨hdoes hne, .inl (by simp), fun h hk => ?_⟩
    have hruns := h.waits (d := d) (f := f) hl
    exact (seqOk_iff hruns.seq hruns.instr).2 ⟨hruns, by simpa using hk⟩

/-- A poll that does not concern `held`, then on to `q`. -/
theorem micro_wait {d : Dev} {f : Flag} {want : BitVec 1} (hg : Onward i k g q) (he : ∀ v, (Event.rdF d f v).Of i)
    (hm : ∀ v, (Event.rdF d f v).movesHeld = false)
    (hq : countIsZero i = false → LegalAt i k s.rem → Reaches i q s.rem) : NextHas (poll d f want g s) (Micro i k s) :=
  micro_poll he (fun _ => micro_onward (acts_rdF (he _) (hm _)).clearPolls hg hq)
    fun _ c was => heldAfter_of_not_movesHeld (hm _) c was

end

end Sys2Proof.Machine
end

section
/-! The micro-step lists, followed once (40_i2c_master R101 to R111, 41_rtc_sequencer R135 to R137). -/

namespace Sys2Proof.Machine

/-- A read of BUF changes nothing but the count of free values (93 U9). -/
theorem State.readBuf_snd (s : State) (a : Nat) : (s.readBuf a).2 = { s with draws := (s.readBuf a).2.draws } := by
  unfold State.readBuf
  split <;> rfl

/-- A read of TREC changes nothing but the count of free values (93 U9). -/
theorem State.readTrec_snd (s : State) (f : TField) : (s.readTrec f).2 = { s with draws := (s.readTrec f).2.draws } := by
  unfold State.readTrec
  split <;> rfl

/-! ### The phases -/

section
variable {i : Instr} {b : BitVec 2} (hb : i.bus? = some b)
include hb

theorem startPhase_micro {fin : State → State} {q : Option Nat} (hfin : Onward i 2 fin q) (k : Nat) (s : State)
    (hl : ∀ j < 3, LegalAt i j s.rem) (hq : Reaches i q s.rem) : NextHas (startPhase b fin k s) (Micro i k s) := by
  unfold startPhase
  split
  · exact micro_wrF onward_advance ⟨hb.symm, rfl, rfl, rfl⟩ rfl fun _ _ => hl 1 (by decide)
  · exact micro_wrF onward_advance ⟨hb.symm, rfl, rfl, rfl⟩ rfl fun _ _ => hl 2 (by decide)
  · refine micro_poll (fun _ => ⟨hb.symm, rfl, rfl, rfl⟩)
      (fun h => micro_onward (acts_startSent hb h).clearPolls hfin fun _ _ => hq) fun hne c was => ?_
    have : Event.rdF (.i2c b) .sb (s.flagBit .sb) ≠ .rdF (.i2c c) .sb 1 := fun h => hne (by injection h)
    rw [heldAfter, if_neg this, if_neg nofun]
  · simp

theorem addrPhase_micro {sel : Byte} {fin : State → State} {q : Option Nat} {base : Nat} (hfin : Onward i (base + 3) fin q)
    (k : Nat) (s : State) (hl : ∀ j < 4, LegalAt i (base + j) s.rem) (hq : Reaches i q s.rem) :
    NextHas (addrPhase b sel fin k s) (Micro i (base + k) s) := by
  unfold addrPhase
  split
  · exact micro_wrR onward_advance ⟨hb.symm, rfl, rfl, rfl⟩ fun _ _ => hl 1 (by decide)
  · exact micro_wait onward_advance (fun _ => ⟨hb.symm, rfl, rfl, rfl⟩) (fun _ => rfl) fun _ _ => hl 2 (by decide)
  · exact micro_rdWord onward_advance ⟨hb.symm, rfl, rfl, rfl⟩ fun _ _ => hl 3 (by decide)
  · exact micro_rdWord hfin ⟨hb.symm, rfl, rfl, rfl⟩ fun _ _ => hq
  · simp

/-- W3, at the given position. -/
theorem sendByte_micro {off n : Byte} {k : Nat} {s : State} (hq : LegalAt i k s.rem → LegalAt i (k + 1) s.rem) :
    NextHas (sendByte b off n s) (Micro i k s) := by
  unfold sendByte
  split
  · rename_i a _
    have hw : StepTo s ((s.readBuf a).2.wrR (.i2c b) .dr (.byte (s.readBuf a).1))
        [.wrR (.i2c b) .dr (.byte (s.readBuf a).1)] s.seq := by
      rw [s.readBuf_snd a]
      rfl
    exact micro_event onward_advance hw ⟨hb.symm, rfl, rfl, rfl⟩ rfl fun _ => hq
  · simp

/-- The data phase (R106), in a command whose positions from `base` on are those of its list. -/
theorem dataPhase_micro {off n : Byte} {base : Nat}
    (hl : ∀ j r, LegalAt i (base + j) r ↔ j < 6 ∧ dataRemOk n.toNat r.toNat j = true) (k : Nat) (s : State) :
    NextHas (dataPhase b off n base k s) (Micro i (base + k) s) := by
  have hmove : ∀ {j j' : Nat} {r r' : Byte}, j' < 6 →
      (dataRemOk n.toNat r.toNat j = true → dataRemOk n.toNat r'.toNat j' = true) →
      LegalAt i (base + j) r → LegalAt i (base + j') r' := fun hlt h hj => (hl _ _).2 ⟨hlt, h ((hl _ _).1 hj).2⟩
  unfold dataPhase
  split
  · exact micro_setRem (r := n) onward_advance fun _ => hmove (j' := 1) (by decide) (by simp [dataRemOk])
  · split
    · exact micro_next acts_nothing (onward_goto (base + 5)) fun _ =>
        hmove (j' := 5) (by decide) (by simp [dataRemOk])
    · rename_i hne
      have hpos : 1 ≤ s.rem.toNat := by bv_omega
      exact micro_next acts_nothing onward_advance fun _ =>
        hmove (j' := 2) (by decide) (by simp [dataRemOk, hpos])
  · exact micro_wait onward_advance (fun _ => ⟨hb.symm, rfl, rfl, rfl⟩) (fun _ => rfl) fun _ =>
      hmove (j' := 3) (by decide) (by simp [dataRemOk])
  · exact sendByte_micro hb (hmove (j' := 4) (by decide) (by simp [dataRemOk]))
  · refine micro_countDown (onward_goto (base + 1)) fun _ hk hne => hmove (j' := 1) (by decide) (fun h => ?_) hk
    obtain ⟨hpos, hle⟩ : 1 ≤ s.rem.toNat ∧ s.rem.toNat ≤ n.toNat := of_decide_eq_true h
    exact decide_eq_true (show (s.rem - 1).toNat ≤ n.toNat by bv_omega)
  · exact micro_wait onward_finish (fun _ => ⟨hb.symm, rfl, rfl, rfl⟩) (fun _ => rfl) fun _ _ => trivial
  · simp

end

/-! ### READ (R108 to R111) -/

section
variable {b : BitVec 2} {addr off n : Byte}

theorem readOne_micro (k : Nat) (s : State) : NextHas (readOne b addr off k s) (Micro (.read b addr off 1) k s) := by
  have hl : ∀ j < 9, ∀ r, LegalAt (.read b addr off 1) j r := fun j hj r => ⟨hj, rfl⟩
  unfold readOne
  split
  · exact micro_wrR onward_advance ⟨rfl, rfl, rfl, rfl⟩ fun _ _ => hl 1 (by decide) _
  · exact micro_wait onward_advance (fun _ => ⟨rfl, rfl, rfl, rfl⟩) (fun _ => rfl) fun _ _ => hl 2 (by decide) _
  iterate 2 · exact micro_wrF onward_advance ⟨rfl, rfl, rfl, rfl⟩ rfl fun _ _ => hl _ (by decide) _
  iterate 2 · exact micro_rdWord onward_advance ⟨rfl, rfl, rfl, rfl⟩ fun _ _ => hl _ (by decide) _
  · exact micro_next (acts_requestStop rfl s) onward_advance fun _ _ => hl 7 (by decide) _
  · exact micro_wait onward_advance (fun _ => ⟨rfl, rfl, rfl, rfl⟩) (fun _ => rfl) fun _ _ => hl 8 (by decide) _
  · have hread : Acts (.read b addr off 1) s (s.rdDr (.i2c b)) := acts_plain ⟨rfl, rfl, rfl, rfl⟩ rfl rfl
    exact micro_next ((hread.writeBuf rfl rfl s.drByte).setRem 0) onward_finish fun _ _ => trivial
  · simp

/-- G7, G11, G16. -/
theorem takeByte_micro {k : Nat} {s : State} (hn : n ≠ 1)
    (hq : LegalAt (.read b addr off n) k s.rem → LegalAt (.read b addr off n) (k + 1) s.rem) :
    NextHas (takeByte b off n s) (Micro (.read b addr off n) k s) := by
  unfold takeByte
  split
  · rename_i a ha
    have hread : Acts (.read b addr off n) s (s.rdDr (.i2c b)) := acts_plain ⟨rfl, rfl, rfl, rfl⟩ rfl rfl
    have hcell : bufCell (.read b addr off n) s.rem = some a := (if_neg hn).trans ha
    exact micro_next (hread.writeBuf rfl hcell s.drByte) onward_advance fun _ => hq
  · simp

/-- Where `rem` may stand in a READ of two or more bytes. -/
theorem legalAt_read_many (hn : n ≠ 1) (k : Nat) (r : Byte) :
    LegalAt (.read b addr off n) k r ↔ k < 18 ∧ manyRemOk n.toNat r.toNat k = true := by
  have hn' : n ≠ 1#8 := hn
  simp [LegalAt, cmdOf, latOf, stepCount, remOk, hn']

/-- G4 (R110), from where the list starts: the count is loaded. -/
theorem readCount_micro (hn : n ≠ 1) (k : Nat) (s : State) :
    NextHas (.next (State.goto 5 { s with rem := n })) (Micro (.read b addr off n) k s) := by
  refine micro_setRem (onward_goto 5) fun hz _ => (legalAt_read_many hn 5 n).2 ⟨by decide, ?_⟩
  have hn0 : n ≠ 0 := by simpa [countIsZero] using hz
  exact decide_eq_true (show 2 ≤ n.toNat ∧ n.toNat ≤ n.toNat by bv_omega)

/-- G0 to G17: along every move of the list `rem` is again where it belongs. -/
theorem readMany_micro (hn : n ≠ 1) (k : Nat) (s : State) :
    NextHas (readMany b addr off n k s) (Micro (.read b addr off n) k s) := by
  have hmove : ∀ {j j' : Nat} {r r' : Byte}, j' < 18 →
      (manyRemOk n.toNat r.toNat j = true → manyRemOk n.toNat r'.toNat j' = true) →
      LegalAt (.read b addr off n) j r → LegalAt (.read b addr off n) j' r' := fun hlt h hj =>
    (legalAt_read_many hn _ _).2 ⟨hlt, h ((legalAt_read_many hn _ _).1 hj).2⟩
  have haddr : ∀ j, NextHas (addrPhase b (selRead addr) State.advance j s) (Micro (.read b addr off n) (0 + j) s) := fun j =>
    addrPhase_micro rfl onward_advance j s
      (fun j hj => (legalAt_read_many hn _ _).2 ⟨by omega, by interval_cases j <;> rfl⟩)
      ((legalAt_read_many hn _ _).2 ⟨by decide, rfl⟩)
  unfold readMany
  split
  · exact haddr 0
  · exact haddr 1
  · exact haddr 2
  · exact haddr 3
  · exact readCount_micro hn 4 s
  · split
    · rename_i hle
      exact micro_next acts_nothing (onward_goto 10) fun _ =>
        hmove (j' := 10) (by decide) fun h => by
          have hrem : 2 ≤ s.rem.toNat ∧ s.rem.toNat ≤ n.toNat := of_decide_eq_true h
          exact decide_eq_true (show s.rem.toNat = 2 by omega)
    · rename_i hgt
      exact micro_next acts_nothing onward_advance fun _ =>
        hmove (j' := 6) (by decide) fun h => by
          have hrem : 2 ≤ s.rem.toNat ∧ s.rem.toNat ≤ n.toNat := of_decide_eq_true h
          exact decide_eq_true (show 3 ≤ s.rem.toNat ∧ s.rem.toNat ≤ n.toNat by omega)
  · exact micro_wait onward_advance (fun _ => ⟨rfl, rfl, rfl, rfl⟩) (fun _ => rfl) fun _ =>
      hmove (j' := 7) (by decide) (by simp [manyRemOk])
  · exact takeByte_micro hn (hmove (by decide) (by simp [manyRemOk]))
  · exact micro_wrF onward_advance ⟨rfl, rfl, rfl, rfl⟩ rfl fun _ =>
      hmove (j' := 9) (by decide) (by simp [manyRemOk])
  · refine micro_countDown (onward_goto 5) fun _ hk hne => hmove (j' := 5) (by decide) (fun h => ?_) hk
    obtain ⟨hpos, hle⟩ : 3 ≤ s.rem.toNat ∧ s.rem.toNat ≤ n.toNat := of_decide_eq_true h
    exact decide_eq_true (show 2 ≤ (s.rem - 1).toNat ∧ (s.rem - 1).toNat ≤ n.toNat by bv_omega)
  · exact micro_wait onward_advance (fun _ => ⟨rfl, rfl, rfl, rfl⟩) (fun _ => rfl) fun _ =>
      hmove (j' := 11) (by decide) (by simp [manyRemOk])
  · exact takeByte_micro hn (hmove (by decide) (by simp [manyRemOk]))
  · exact micro_wrF onward_advance ⟨rfl, rfl, rfl, rfl⟩ rfl fun _ =>
      hmove (j' := 13) (by decide) (by simp [manyRemOk])
  · exact micro_next (acts_requestStop rfl s) onward_advance fun _ =>
      hmove (j' := 14) (r' := s.rem) (by decide) (by simp [manyRemOk])
  · refine micro_countDown onward_advance fun _ hk hne => hmove (j' := 15) (by decide) (fun h => ?_) hk
    have hrem : s.rem.toNat = 2 := of_decide_eq_true h
    exact decide_eq_true (show (s.rem - 1).toNat = 1 by bv_omega)
  · exact micro_wait onward_advance (fun _ => ⟨rfl, rfl, rfl, rfl⟩) (fun _ => rfl) fun _ =>
      hmove (j' := 16) (by decide) (by simp [manyRemOk])
  · exact takeByte_micro hn (hmove (by decide) (by simp [manyRemOk]))
  · exact micro_countDown onward_finish fun _ _ _ => trivial
  · simp

theorem readStep_micro (k : Nat) (s : State) : NextHas (readStep b addr off n k s) (Micro (.read b addr off n) k s) := by
  unfold readStep
  split
  · subst n
    exact readOne_micro k s
  · rename_i hn
    unfold readManyIndex
    split
    · exact readCount_micro hn k s
    · exact readMany_micro hn k s

end

/-! ### The other commands -/

/-- The writes of CONFIGURE (R101). -/
theorem configureWrites_of (c : Config) (b : BitVec 2) : ∀ p ∈ configureWrites c b,
    (Event.wrF p.1 p.2.1 p.2.2).Of (.configure b) ∧ (Event.wrF p.1 p.2.1 p.2.2).movesHeld = false := by
  simp only [configureWrites, List.forall_mem_cons]
  iterate 12 refine ⟨⟨⟨rfl, rfl, rfl, rfl⟩, rfl⟩, ?_⟩
  simp

theorem configureStep_micro (b : BitVec 2) (k : Nat) (s : State) :
    NextHas (configureStep b k s) (Micro (.configure b) k s) := by
  unfold configureStep
  split
  · rename_i d f v hwrite
    obtain ⟨he, hm⟩ := configureWrites_of s.cfg b _ (List.mem_of_getElem? hwrite)
    split
    · exact micro_wrF (onward_finish.setConfigured b) he hm fun _ _ => trivial
    · rename_i hk
      refine micro_wrF onward_advance he hm fun _ hl => ⟨?_, rfl⟩
      have hlt : k < 12 := hl.1
      exact show k + 1 < 12 by omega
  · simp

theorem writeStep_micro (b : BitVec 2) (addr off n : Byte) (k : Nat) (s : State) :
    NextHas (writeStep b addr off n k s) (Micro (.write b addr off n) k s) := by
  have hl : ∀ j r, LegalAt (.write b addr off n) (7 + j) r ↔ j < 6 ∧ dataRemOk n.toNat r.toNat j = true := by
    intro j r
    change 7 + j < 13 ∧ (if 7 ≤ 7 + j then dataRemOk n.toNat r.toNat (7 + j - 7) else true) = true ↔ _
    rw [if_pos (by omega), Nat.add_sub_cancel_left]
    exact and_congr_left' (by omega)
  have hearly : ∀ j < 7, LegalAt (.write b addr off n) j s.rem := by
    intro j hj
    exact ⟨show j < 13 by omega, if_neg (by omega)⟩
  unfold writeStep
  split
  · exact startPhase_micro rfl onward_advance k s (fun j hj => hearly j (by omega)) (hearly 3 (by decide))
  · split
    · obtain ⟨j, rfl⟩ := Nat.exists_eq_add_of_le (show 3 ≤ k by omega)
      rw [Nat.add_sub_cancel_left]
      exact addrPhase_micro rfl onward_advance j s (fun j hj => hearly _ (by omega)) ((hl 0 s.rem).2 ⟨by decide, rfl⟩)
    · obtain ⟨j, rfl⟩ := Nat.exists_eq_add_of_le (show 7 ≤ k by omega)
      rw [Nat.add_sub_cancel_left]
      exact dataPhase_micro rfl hl j s

theorem wrdata_micro (b : BitVec 2) (off n : Byte) (k : Nat) (s : State) :
    NextHas (dataPhase b off n 0 k s) (Micro (.wrdata b off n) k s) := by
  have h := dataPhase_micro (i := .wrdata b off n) (b := b) (off := off) (n := n) (base := 0) rfl
    (fun j r => by rw [Nat.zero_add]; exact Iff.rfl) k s
  rwa [Nat.zero_add] at h

theorem sendaddr_micro (b : BitVec 2) (sel : Byte) (k : Nat) (s : State) :
    NextHas (addrPhase b sel State.finish k s) (Micro (.sendaddr b sel) k s) := by
  have h := addrPhase_micro (i := .sendaddr b sel) (b := b) (sel := sel) (base := 0) rfl onward_finish k s
    (fun j hj => ⟨by rw [Nat.zero_add]; exact hj, rfl⟩) trivial
  rwa [Nat.zero_add] at h

theorem stopStep_micro (b : BitVec 2) (k : Nat) (s : State) : NextHas (stopStep b k s) (Micro (.stop b) k s) := by
  unfold stopStep
  split
  · exact micro_next (acts_requestStop rfl s) onward_finish fun _ _ => trivial
  · simp

theorem rtcinitStep_micro (k : Nat) (s : State) : NextHas (rtcinitStep k s) (Micro .rtcinit k s) := by
  have hl : ∀ j < 17, ∀ r, LegalAt .rtcinit j r := fun j hj r => ⟨hj, rfl⟩
  unfold rtcinitStep
  split
  · exact micro_wrF (onward_advance.setRtc _) ⟨rfl, rfl, rfl, rfl⟩ rfl fun _ _ => hl _ (by decide) _
  iterate 2 · exact micro_wrF onward_advance ⟨rfl, rfl, rfl, rfl⟩ rfl fun _ _ => hl _ (by decide) _
  · exact micro_wait onward_advance (fun _ => ⟨rfl, rfl, rfl, rfl⟩) (fun _ => rfl) fun _ _ => hl _ (by decide) _
  iterate 2 · exact micro_wrF onward_advance ⟨rfl, rfl, rfl, rfl⟩ rfl fun _ _ => hl _ (by decide) _
  · exact micro_wrR onward_advance ⟨rfl, rfl, rfl, rfl⟩ fun _ _ => hl _ (by decide) _
  · exact micro_wrR (onward_advance.setRtc _) ⟨rfl, rfl, rfl, rfl⟩ fun _ _ => hl _ (by decide) _
  · exact micro_wrF onward_advance ⟨rfl, rfl, rfl, rfl⟩ rfl fun _ _ => hl _ (by decide) _
  · exact micro_wait (onward_advance.setRtc _) (fun _ => ⟨rfl, rfl, rfl, rfl⟩) (fun _ => rfl) fun _ _ => hl _ (by decide) _
  iterate 4 · exact micro_wrF onward_advance ⟨rfl, rfl, rfl, rfl⟩ rfl fun _ _ => hl _ (by decide) _
  · exact micro_wait (onward_advance.setRtc _) (fun _ => ⟨rfl, rfl, rfl, rfl⟩) (fun _ => rfl) fun _ _ => hl _ (by decide) _
  · exact micro_wrR (onward_advance.setRtc _) ⟨rfl, rfl, rfl, rfl⟩ fun _ _ => hl _ (by decide) _
  · exact micro_wrF (onward_finish.setRtc _) ⟨rfl, rfl, rfl, rfl⟩ rfl fun _ _ => trivial
  · simp

/-- S5. -/
theorem writeTime_micro {k : Nat} {s : State} (hq : LegalAt .rtcset (k + 1) s.rem) :
    NextHas (writeTime s) (Micro .rtcset k s) := by
  unfold writeTime
  split
  · rename_i w _
    have hw : StepTo s (s.sampleSec.2.wrR .rtc .tr (.word w)) [.wrR .rtc .tr (.word w)] s.seq := by
      rw [State.sampleSec, State.readTrec_snd, State.sampleMin, State.readTrec_snd, State.sampleHour, State.readTrec_snd]
      rfl
    exact micro_event onward_advance hw ⟨rfl, rfl, rfl, rfl⟩ rfl fun _ _ => hq
  · simp

theorem rtcsetStep_micro (k : Nat) (s : State) : NextHas (rtcsetStep k s) (Micro .rtcset k s) := by
  have hl : ∀ j < 10, ∀ r, LegalAt .rtcset j r := fun j hj r => ⟨hj, rfl⟩
  unfold rtcsetStep
  split
  · exact micro_wrF onward_advance ⟨rfl, rfl, rfl, rfl⟩ rfl fun _ _ => hl _ (by decide) _
  · exact micro_wrR onward_advance ⟨rfl, rfl, rfl, rfl⟩ fun _ _ => hl _ (by decide) _
  · exact micro_wrR (onward_advance.setRtc _) ⟨rfl, rfl, rfl, rfl⟩ fun _ _ => hl _ (by decide) _
  · exact micro_wrF onward_advance ⟨rfl, rfl, rfl, rfl⟩ rfl fun _ _ => hl _ (by decide) _
  · exact micro_wait (onward_advance.setRtc _) (fun _ => ⟨rfl, rfl, rfl, rfl⟩) (fun _ => rfl) fun _ _ => hl _ (by decide) _
  · exact writeTime_micro (hl _ (by decide) _)
  · exact micro_wrR onward_advance ⟨rfl, rfl, rfl, rfl⟩ fun _ _ => hl _ (by decide) _
  · exact micro_wrF onward_advance ⟨rfl, rfl, rfl, rfl⟩ rfl fun _ _ => hl _ (by decide) _
  · exact micro_wait (onward_advance.setRtc _) (fun _ => ⟨rfl, rfl, rfl, rfl⟩) (fun _ => rfl) fun _ _ => hl _ (by decide) _
  · exact micro_wrR ((onward_finish.setRtc _).setRtc _) ⟨rfl, rfl, rfl, rfl⟩ fun _ _ => trivial
  · simp

theorem rtcgetStep_micro (k : Nat) (s : State) : NextHas (rtcgetStep k s) (Micro .rtcget k s) := by
  have hl : ∀ j < 3, ∀ r, LegalAt .rtcget j r := fun j hj r => ⟨hj, rfl⟩
  unfold rtcgetStep
  split
  · exact micro_wait onward_advance (fun _ => ⟨rfl, rfl, rfl, rfl⟩) (fun _ => rfl) fun _ _ => hl _ (by decide) _
  · have hread : Acts .rtcget s (s.rdWord .rtc .tr) := acts_plain ⟨rfl, rfl, rfl, rfl⟩ rfl rfl
    exact micro_next (((hread.writeTrec .hour _).writeTrec .min _).writeTrec .sec _) onward_advance
      fun _ _ => hl 2 (by decide) _
  · exact micro_rdWord onward_finish ⟨rfl, rfl, rfl, rfl⟩ fun _ _ => trivial
  · simp

theorem bodyOf_micro (i : Instr) (k : Nat) (s : State) : NextHas (bodyOf i k s) (Micro i k s) := by
  cases i with
  | configure b => exact configureStep_micro b k s
  | start b => exact startPhase_micro rfl onward_finish k s (fun _ hj => ⟨hj, rfl⟩) trivial
  | sendaddr b sel => exact sendaddr_micro b sel k s
  | write b addr off n => exact writeStep_micro b addr off n k s
  | wrdata b off n => exact wrdata_micro b off n k s
  | read b addr off n => exact readStep_micro k s
  | stop b => exact stopStep_micro b k s
  | rtcinit => exact rtcinitStep_micro k s
  | rtcset => exact rtcsetStep_micro k s
  | rtcget => exact rtcgetStep_micro k s

end Sys2Proof.Machine
end

section
/-! The statements about the state: the invariant, the code, BUF and the fields written 1, from what a call of `exec` does; the
values after reset; and the host's ports. -/

namespace Sys2Proof.Machine

/-! ### What every call of `exec` does -/

theorem exec_does (i : Instr) (s : State) : NextHas (exec i s) (Does i s) :=
  nextHas_exec
    (fun _ => nextHas_accept (fun _ => does_nothing rfl rfl rfl rfl rfl) (fun _ _ _ => does_nothing rfl rfl rfl rfl rfl)
      (fun _ _ _ => does_nothing rfl rfl rfl rfl rfl))
    (fun k _ _ t h => (bodyOf_micro i k s t h).toDoes)

/-! ### The invariant -/

theorem record_wf {ri : List (Nat × Val)} (h : Memory.wf 768 ri) (es : List Event) : Memory.wf 768 (record ri es) := by
  induction es generalizing ri with
  | nil => exact h
  | cons e es ih => exact ih (Memory.wf_set e.val h e.name.code_lt)

/-- The commands' events keep the invariant, wherever the sequencer is left as it should be. -/
theorem Inv.does {i : Instr} {s t : State} (h : Inv s) (hd : Does i s t) (hi : i.wf s.cfg.nBus = true) (hseq : seqOk t)
    (herr : t.err.toNat ≤ 4) : Inv t := by
  obtain ⟨hcfg, hbuf, es, hof, htr, hri, hheld⟩ := hd
  refine ⟨hcfg ▸ h.cfgOk, hseq, herr, ?_, hri ▸ record_wf h.ri es, fun e he => ?_, fun c => ?_⟩
  · rcases hbuf with hbuf | ⟨a, v, ha, hbuf⟩
    · exact hbuf ▸ h.buf
    · exact hbuf ▸ Memory.wf_set v h.buf (bufCell_lt ha)
  · rw [hcfg]
    rcases List.mem_append.1 (htr ▸ he) with he | he
    · exact h.events e he
    · exact (hof e he).wf hi
  · rw [hheld, h.held, htr, heldByTrace, heldByTrace, List.foldl_append]

/-- What emits nothing and leaves BUF and the record canonical keeps the invariant. -/
theorem Inv.silent {s t : State} (h : Inv s) (hseq : seqOk t) (herr : t.err.toNat ≤ 4) (hbuf : Memory.wf Config.bufSize t.buf)
    (hri : Memory.wf 768 t.ri) (hcfg : t.cfg = s.cfg := by simp) (htr : t.tr = s.tr := by simp)
    (hheld : t.held = s.held := by simp) : Inv t :=
  ⟨hcfg ▸ h.cfgOk, hseq, herr, hbuf, hri, by rw [htr, hcfg]; exact h.events, by rw [htr, hheld]; exact h.held⟩

theorem Inv.setHost {s : State} (h : Inv s) (host : List HostItem) : Inv { s with host := host } :=
  ⟨h.cfgOk, h.seq, h.err, h.buf, h.ri, h.events, h.held⟩

theorem Config.pollLimit_pos {c : Config} (h : c.wf = true) {l : Nat} (hl : c.pollLimit = some l) : 0 < l := by
  have hne : c.pollLimit ≠ some 0 := by
    simp only [Config.wf, Bool.and_eq_true, decide_eq_true_eq] at h
    tauto
  exact Nat.pos_of_ne_zero fun h0 => hne (h0 ▸ hl)

theorem legalAt_zero (i : Instr) (rem : Byte) : LegalAt i 0 rem := by
  cases i with
  | read b addr off n =>
    by_cases hn : n = 1
    · subst hn
      exact ⟨Nat.zero_lt_succ _, rfl⟩
    · exact (legalAt_read_many hn 0 rem).2 ⟨by decide, rfl⟩
  | _ => exact ⟨Nat.zero_lt_succ _, rfl⟩

theorem ErrKind.code_le (k : ErrKind) : k.code.toNat ≤ 4 := by cases k <;> decide

theorem exec_keeps_inv {i : Instr} {s : State} (h : Inv s) : NextHas (exec i s) Inv := by
  refine nextHas_exec (fun _ => ?_) fun k hs hi t ht => ?_
  · refine nextHas_accept (fun _ => ?_) (fun e _ _ => ?_) fun hwf _ hg => ?_
    · exact h.silent (seqOk_of_idle rfl) (ErrKind.code_le _) h.buf h.ri
    · exact h.silent (seqOk_of_idle rfl) (ErrKind.code_le e) h.buf h.ri
    · have hstart : RunsAt i 0 ((s.latch i).begin i) :=
        ⟨rfl, by simp, hwf, countIsZero_of_gateOf_none hg, rfl, fun _ hl => Config.pollLimit_pos h.cfgOk hl⟩
      exact h.silent ((seqOk_iff hstart.seq hstart.instr).2 ⟨hstart, legalAt_zero i _⟩) (Nat.zero_le _) h.buf h.ri
  · obtain ⟨hruns, hlegal⟩ := (seqOk_iff hs hi).1 h.seq
    obtain ⟨hdoes, herr, hpos⟩ := bodyOf_micro i k s t ht
    refine h.does hdoes hruns.wf (hpos hruns hlegal) ?_
    rcases herr with herr | ⟨-, herr⟩
    · exact herr ▸ h.err
    · rw [herr]; decide

theorem busGet_replicate (x : Bool) (b : BitVec 2) : busGet (Vector.replicate 4 x) b = x := Vector.getElem_replicate _

/-- An idle block with nothing held, no event and no code meets the invariant. -/
theorem inv_of_fresh {s : State} (hcfg : s.cfg.wf = true) (hri : Memory.wf 768 s.ri) (hseq : s.seq = .idle) (herr : s.err = 0)
    (hbuf : s.buf = []) (htr : s.tr = []) (hheld : s.held = Vector.replicate 4 false) : Inv s :=
  ⟨hcfg, seqOk_of_idle hseq, by simp [herr], hbuf ▸ Memory.wf_nil _, hri, by simp [htr],
    fun b => by rw [hheld, htr, busGet_replicate]; rfl⟩

theorem hostTurn_keeps_inv {it : HostItem} {s : State} (h : Inv s) : NextHas (hostTurn it s) Inv :=
  nextHas_hostTurn
    (hdrop := fun _ => h.setHost _)
    (hexec := fun _ _ _ => exec_keeps_inv h)
    (hillegal := fun _ => h.silent (seqOk_of_idle rfl) (ErrKind.code_le _) h.buf h.ri)
    (hbufWrite := fun i v hs => h.silent (seqOk_of_idle hs) h.err (Memory.wf_set v h.buf i.isLt) h.ri)
    (hbufRead := fun _ _ hs =>
      h.silent (seqOk_of_idle (by simpa using hs)) (by simpa using h.err) (by simpa using h.buf) (by simpa using h.ri))
    (htrecWrite := fun _ _ hs => h.silent (seqOk_of_idle hs) h.err h.buf h.ri)
    (htrecRead := fun _ _ hs =>
      h.silent (seqOk_of_idle (by simpa using hs)) (by simpa using h.err) (by simpa using h.buf) (by simpa using h.ri))
    (hstatus := h.silent h.seq h.err h.buf h.ri)
    (hreset := inv_of_fresh h.cfgOk h.ri rfl rfl rfl rfl rfl)
    (hforeign := fun _ _ v hs => h.silent (seqOk_of_idle hs) h.err h.buf (Memory.wf_set v h.ri (RiName.code_lt _)))
    (hexpand := fun _ _ => h.setHost _)

/-- Settles O9: a micro-step's events are those of its command, `held` follows them, and the sequencer goes to a position at which
`rem` stands where the list puts it; every other step emits nothing. -/
theorem everyStepKeepsTheInvariant : Obligations.EveryStepKeepsTheInvariant := fun _ _ h =>
  nextHas_step (fun _ _ => h) (fun _ _ host _ => exec_keeps_inv (h.setHost host))
    (fun _ rest _ _ => hostTurn_keeps_inv (h.setHost rest)) _

/-! ### The code, BUF, and the fields that are only written 1 -/

/-- Settles O13: only a check, made when CHECKED, or a poll at a finite POLL_LIMIT raises an error in a command whose bus exists. -/
theorem referenceBehaviourRaisesNothing : Obligations.ReferenceBehaviourRaisesNothing := by
  intro i s t hlimit hchecked hwf h
  constructor
  · intro hs
    have hcheck : acceptCheck i s = none := by simp [acceptCheck, hchecked]
    rw [exec_idle hs] at h
    exact nextHas_accept (p := fun u => u.err = 0) (by simp [hwf]) (by simp [hcheck]) (fun _ _ _ => rfl) t h
  · intro hs
    refine nextHas_exec (p := fun u => u.err = s.err) (fun hi => absurd hi hs) (fun k _ _ u hu => ?_) t h
    exact (bodyOf_micro i k s u hu).err.resolve_right fun hto => hto.1 hlimit

/-- Only READ has a cell to write: BUF[off] for one byte, BUF[off + n - rem] for more. -/
theorem bufCell_some {i : Instr} {rem : Byte} {a : Nat} (h : bufCell i rem = some a) :
    ∃ b addr off n, i = .read b addr off n ∧ a = if n = 1 then off.toNat else off.toNat + n.toNat - rem.toNat := by
  cases i with
  | read b addr off n =>
    refine ⟨b, addr, off, n, rfl, ?_⟩
    simp only [bufCell] at h
    split at h <;> rename_i hn
    · rw [if_pos hn]
      exact (Option.some.inj h).symm
    · rw [if_neg hn]
      have := bufIndex_spec h
      omega
  | _ => cases h

/-- Settles O47: the one cell a command may write is READ's. -/
theorem onlyReadWritesBuf : Obligations.OnlyReadWritesBuf := by
  refine ⟨fun i s t hi h => ?_, fun b addr off n s t h a ha => ?_⟩
  · rcases (exec_does i s t h).buf with hbuf | ⟨c, v, hc, -⟩
    · exact hbuf
    · obtain ⟨b, addr, off, n, rfl, -⟩ := bufCell_some hc
      exact absurd rfl (hi b addr off n)
  · rcases (exec_does _ s t h).buf with hbuf | ⟨c, v, hc, hbuf⟩
    · rw [hbuf]
    · obtain ⟨_, _, _, _, heq, rfl⟩ := bufCell_some hc
      obtain ⟨rfl, rfl, rfl, rfl⟩ := Instr.read.inj heq
      rw [hbuf, Memory.get?_set_other _ _ _ _ ha]

/-- An event that a call of `exec` adds to the trace is one that the command may emit. -/
theorem event_of_exec {i : Instr} {s t : State} {e : Event} (h : exec i s = .next t) (ht : t.tr = s.tr ++ [e]) : e.Of i := by
  obtain ⟨es, hof, htr, -⟩ := (exec_does i s t h).events
  have hes : es = [e] := List.append_cancel_left (htr.symm.trans ht)
  exact hof e (by simp [hes])

/-- Settles O49: an event that a command may emit writes these fields so. -/
theorem fieldsOnlyWrittenOne : Obligations.FieldsOnlyWrittenOne := by
  intro i s t d f v h ht
  have hones := (event_of_exec h ht).ones
  constructor
  · rintro (rfl | rfl | rfl | rfl) <;> simpa [Event.writesOne] using hones
  · rintro rfl
    simpa [Event.writesOne] using hones

/-! ### Steps, reset, STATUS -/

/-- An action that waits for no expansion is taken as soon as the block is idle. -/
theorem step_idle_act {s : State} {a : HostAction} {timing : HostTiming} {rest : List HostItem} (hs : s.seq = .idle)
    (hh : s.host = { act := a, timing := timing, cont := false } :: rest) : step s = hostAct a { s with host := rest } := by
  rw [step_host hh (.inl hs), hostTurn_act rfl]

theorem whenIdle_of_idle {s : State} (hs : s.seq = .idle) (r : Result) : whenIdle s r = r := by
  simp [whenIdle, State.busy, hs]

/-- Settles O5, clause by clause: the host's turn, the sequencer's turn, and a step with nothing to do. -/
theorem stepRunsTheDecodedCommand : Obligations.StepRunsTheDecodedCommand := by
  refine ⟨fun s w i timing rest hs hh hd => ?_, fun s i k hr hw => ?_, fun s i k n a cont rest hr hh => ?_, fun s hs hh => ?_⟩
  · rw [step_idle_act hs hh, hostAct, whenIdle_of_idle (by exact hs), writeCmd]
    simp only [hd]
  · cases hh : s.host with
    | nil => exact step_alone hh hr
    | cons it rest =>
      have ht := hw it rest hh
      have hwaited : it.waited = it := by simp [HostItem.waited, ht]
      rw [step_waits hh hr (by simp [ht]), hwaited, ← hh]
  · rw [step_waits hh hr (by simp)]
    rfl
  · simp [step, hh, sequencerTurn, State.running_of_idle hs]

/-- Settles O6. -/
theorem resetLeavesTheRulesValues : Obligations.ResetLeavesTheRulesValues :=
  ⟨rfl, rfl, rfl, fun b => ⟨busGet_replicate false b, busGet_replicate false b⟩, rfl, rfl⟩

/-- Settles O8: the block is idle, nothing is held, and the trace is empty. -/
theorem invariantHoldsAtReset : Obligations.InvariantHoldsAtReset :=
  inv_of_fresh (by decide) (Memory.wf_set _ (Memory.wf_nil _) (RiName.code_lt (.reg .rtc .tr))) rfl rfl rfl rfl rfl

/-- Settles O14, from the bits of STATUS. -/
theorem statusWordLayout : Obligations.StatusWordLayout := by
  intro s
  refine ⟨?_, ?_, ?_⟩
  · rw [State.status_bit, if_pos rfl, State.busy_iff]
  · refine BitVec.eq_of_getLsbD_eq fun k hk => ?_
    have hlt : 1 + k < 4 := by omega
    simp [State.status_bit, hk, hlt]
  · refine BitVec.eq_of_getLsbD_eq fun k hk => ?_
    simp [State.status_bit]

/-! ### The host's ports -/

/-- Settles O22: each port's action while idle, and the store's read after write. -/
theorem hostReadsBackWhatWasWritten : Obligations.HostReadsBackWhatWasWritten := by
  intro s timing rest hs
  have hact : ∀ (a : HostAction) (r : Result), s.host = { act := a, timing := timing, cont := false } :: rest →
      hostAct a { s with host := rest } = whenIdle { s with host := rest } r → step s = r := fun a r hh ha => by
    rw [step_idle_act hs hh, ha, whenIdle_of_idle (by exact hs)]
  refine ⟨fun i v hh => ?_, fun f v hh => ?_, fun i v hh hv => ?_, fun f hh hf => ?_⟩
  · exact ⟨_, hact _ _ hh rfl, Memory.get?_set_same _ _ _, fun a ha => Memory.get?_set_other _ _ _ _ ha, rfl⟩
  · refine ⟨_, hact _ _ hh rfl, ?_, ?_, fun g hg => ⟨?_, ?_⟩, rfl⟩ <;> simp [State.writeTrec, trecGet_trecSet, *]
  · rw [hact _ _ hh rfl, State.readBuf_known (s := { s with host := rest }) hv]
    rfl
  · rw [hact _ _ hh rfl, State.readTrec_known (s := { s with host := rest }) hf]
    rfl

end Sys2Proof.Machine
end

section
/-! The statements of the memory family (20_memory): what ENV0 answers, a poll without a limit, and no fault under the invariant. -/

namespace Sys2Proof.Machine

/-! ### The reference environment ENV0 (R62) -/

section
variable {s : State} {e : Env0} (h : s.env = .env0 e)
include h

/-- A flag but INITF is 1 once the poll has read it `k` times (R62 item 1). -/
theorem State.flagBit_env0 {f : Flag} (hf : f ≠ .initf) : s.flagBit f = if e.pollReads < e.k then 0 else 1 := by
  simp only [State.flagBit, State.askFlag, h, Env.answerFlag, env0Flag, if_neg hf]
  split <;> rfl

theorem State.rdF_env0 (d : Dev) {f : Flag} (hf : f ≠ .initf) :
    (s.rdF d f).env = .env0 { e with pollReads := if e.pollReads < e.k then e.pollReads + 1 else 0 } := by
  simp only [State.rdF_env, State.askFlag, h, Env.answerFlag, env0Flag, if_neg hf]
  split <;> rfl

/-- The reads of a poll that are answered 0 are counted. -/
theorem State.repeat_rdF_env0 (d : Dev) {f : Flag} (hf : f ≠ .initf) (h0 : e.pollReads = 0) (n : Nat) (hn : n ≤ e.k) :
    (Nat.repeat (State.rdF d f) n s).env = .env0 { e with pollReads := n } := by
  induction n with
  | zero => exact h.trans (by rw [← h0])
  | succ n ih => exact (State.rdF_env0 (ih (by omega)) d hf).trans (by simp [show n < e.k by omega])

/-- INITF follows INIT after `k` reads (R62 item 2). -/
theorem State.flagBit_initf_env0 : s.flagBit .initf = if e.initReads < e.k then e.prevInit else e.init := by
  simp only [State.flagBit, State.askFlag, h, Env.answerFlag, env0Flag, if_true]
  exact BitVec.setWidth_setWidth_of_le _ (by decide) |>.trans (BitVec.setWidth_eq _)

theorem State.rdF_initf_env0 (d : Dev) : (s.rdF d .initf).env = .env0 { e with initReads := e.initReads + 1 } := by
  simp [State.askFlag, h, Env.answerFlag, env0Flag]

theorem State.repeat_rdF_initf_env0 (d : Dev) (n : Nat) :
    (Nat.repeat (State.rdF d .initf) n s).env = .env0 { e with initReads := e.initReads + n } := by
  induction n with
  | zero => exact h
  | succ n ih => exact State.rdF_initf_env0 ih d

/-- A write of INIT starts the count of INITF anew (R62 item 2). -/
theorem State.wrF_init_env0 (d : Dev) (v : BitVec 1) :
    (s.wrF d .init (.bit v)).env = .env0 { e with prevInit := e.init, init := v, initReads := 0 } := by
  rw [State.wrF_env, h]
  obtain rfl | rfl : v = 0 ∨ v = 1 := by revert v; decide
  · rfl
  · rfl

theorem State.wrF_env0 (d : Dev) {f : Field} (hf : f ≠ .init) (v : Val) : (s.wrF d f v).env = .env0 e := by
  simp [h, Env.onWrF, hf]

/-- What ENV0 answers to a register read, and what the read leaves of it (R62 items 3 to 6). -/
theorem State.askReg_env0 (r : Reg) : s.askReg r = env0Reg e r (Config.freeAnswer s.draws) := by
  rw [State.askReg, h]; rfl

theorem State.wrR_env0 (d : Dev) {r : Reg} (htr : r ≠ .tr) (hdate : r ≠ .date) (v : Val) : (s.wrR d r v).env = .env0 e := by
  simp [h, Env.onWrR, htr, hdate]

/-- DR is read from the front of `rx` (R62 item 3). -/
theorem State.rdDr_env0 (d : Dev) {v : Byte} {rest : List Byte} (hrx : e.rx = v :: rest) :
    s.drByte = v ∧ (s.rdDr d).env = .env0 { e with rx := rest } := by
  simp only [State.drByte, State.rdDr_env, State.askReg_env0 h, env0Reg, hrx, and_true]
  exact BitVec.setWidth_setWidth_of_le _ (by decide) |>.trans (BitVec.setWidth_eq _)

end

/-- Settles O56: the answers to one read, and by induction on their number those to the reads of one poll. -/
theorem env0Answers : Obligations.Env0Answers := by
  intro s e h
  refine ⟨fun d f hf => ⟨State.flagBit_env0 h hf, State.rdF_env0 h d hf⟩,
    fun d f n hf h0 hn => State.flagBit_env0 (State.repeat_rdF_env0 h d hf h0 n hn) hf,
    fun d => ⟨State.flagBit_initf_env0 h, State.rdF_initf_env0 h d⟩, fun d v => ⟨State.wrF_init_env0 h d v, fun n => ?_⟩,
    fun d f v hf => State.wrF_env0 h d hf v, fun d v rest => State.rdDr_env0 h d, ?_,
    ?_, ?_, ?_, ?_, fun d w => ?_, fun d r v htr hdate => State.wrR_env0 h d htr hdate v, fun i => ?_⟩
  · rw [State.flagBit_initf_env0 (State.repeat_rdF_initf_env0 (State.wrF_init_env0 h d v) d n), Nat.zero_add]
  · rintro d r (rfl | rfl | rfl | rfl) <;> rw [State.rdWord_env, State.askReg_env0 h] <;> rfl
  iterate 4 · rw [State.regWord, State.askReg_env0 h]; rfl
  · rw [State.wrR_env, State.wrR_env, h]; exact ⟨rfl, rfl⟩
  · rw [State.begin_env, h]; rfl

/-! ### A poll without a limit (R56) -/

/-- Below POLL_LIMIT INF no read is counted: a failed one is its event alone. -/
theorem poll_fails_of_noLimit {d : Dev} {f : Flag} {want : BitVec 1} {fin : State → State} {s : State}
    (hlimit : s.cfg.pollLimit = none) (hne : s.flagBit f ≠ want) : poll d f want fin s = .next (s.rdF d f) := by
  have hcount : (s.rdF d f).countPoll = s.rdF d f := by simp [State.countPoll, hlimit]
  rcases poll_cases d f want fin s with ⟨heq, -⟩ | ⟨-, hlast, -⟩ | ⟨-, -, hpoll⟩
  · exact absurd heq hne
  · simp [hlimit] at hlast
  · rw [hpoll, hcount]

/-- Settles O15: wherever `pollAt` names a poll, the micro-step is one read of it. -/
theorem unsatisfiedPollKeepsWaiting : Obligations.UnsatisfiedPollKeepsWaiting := by
  intro i k d f want s hlimit hpoll hrun hne
  obtain ⟨fin, hbody⟩ := pollAt_body hpoll
  exact ⟨s.rdF d f, by rw [exec_running hrun, hbody, poll_fails_of_noLimit hlimit hne], rfl⟩

/-! ### No fault under the invariant (R67, 40_i2c_master R113, 10_state R22) -/

/-- The answer is no fault. -/
def Faultless (r : Result) : Prop := ∀ f : Fault, r ≠ .fault f

@[simp] theorem faultless_next (t : State) : Faultless (.next t) := fun _ => nofun

@[simp] theorem faultless_refused (r : Refusal) : Faultless (.refused r) := fun _ => nofun

@[simp] theorem poll_faultless (d : Dev) (f : Flag) (want : BitVec 1) (fin : State → State) (s : State) :
    Faultless (poll d f want fin s) := by
  rcases poll_cases d f want fin s with ⟨-, h⟩ | ⟨-, -, h⟩ | ⟨-, -, h⟩ <;> rw [h] <;> exact faultless_next _

theorem accept_faultless (i : Instr) (gate : State → Option Refusal) (s : State) : Faultless (accept i gate s) := by
  rcases accept_cases i gate s with ⟨-, h⟩ | ⟨-, _, -, h⟩ | ⟨-, -, _, -, h⟩ | ⟨-, -, -, h⟩ <;> rw [h] <;> simp

section
variable {b : BitVec 2} {off n : Byte} {s : State}

/-- `rem` is not decremented at 0 (40_i2c_master R113). -/
theorem countDown_faultless {fin : State → State} (hpos : 1 ≤ s.rem.toNat) : Faultless (countDown fin s) := by
  have hne : s.rem ≠ 0 := by bv_omega
  rw [countDown, if_neg hne]
  exact faultless_next _

theorem sendByte_faultless (hrem : 1 ≤ s.rem.toNat ∧ s.rem.toNat ≤ n.toNat) : Faultless (sendByte b off n s) := by
  obtain ⟨v, dr, h, -⟩ := sendByte_spec (b := b) (off := off) hrem.1 hrem.2
  rw [h]
  exact faultless_next _

theorem takeByte_faultless (hrem : 1 ≤ s.rem.toNat ∧ s.rem.toNat ≤ n.toNat) : Faultless (takeByte b off n s) := by
  simp [takeByte, bufIndex, hrem]

/-! The micro-step lists: at each index of its list a command's micro-step is no fault. -/

theorem startPhase_faultless {fin : State → State} {k : Nat} (hk : k < 3) : Faultless (startPhase b fin k s) := by
  interval_cases k <;> simp [startPhase]

theorem addrPhase_faultless {sel : Byte} {fin : State → State} {k : Nat} (hk : k < 4) :
    Faultless (addrPhase b sel fin k s) := by
  interval_cases k <;> simp [addrPhase]

theorem dataPhase_faultless {base k : Nat} (hk : k < 6) (hrem : dataRemOk n.toNat s.rem.toNat k = true) :
    Faultless (dataPhase b off n base k s) := by
  interval_cases k
  · exact faultless_next _
  · exact faultless_next _
  · exact poll_faultless _ _ _ _ s
  · exact sendByte_faultless (of_decide_eq_true hrem)
  · have hrange : 1 ≤ s.rem.toNat ∧ s.rem.toNat ≤ n.toNat := of_decide_eq_true hrem
    exact countDown_faultless hrange.1
  · exact poll_faultless _ _ _ _ s

theorem writeStep_faultless {addr : Byte} {k : Nat} (hl : LegalAt (.write b addr off n) k s.rem) :
    Faultless (writeStep b addr off n k s) := by
  obtain ⟨hk, hrem⟩ : k < 13 ∧ (if 7 ≤ k then dataRemOk n.toNat s.rem.toNat (k - 7) else true) = true := hl
  unfold writeStep
  split
  · exact startPhase_faultless (by assumption)
  · split
    · exact addrPhase_faultless (by omega)
    · rw [if_pos (by omega)] at hrem
      exact dataPhase_faultless (by omega) hrem

theorem readOne_faultless {addr : Byte} {k : Nat} (hk : k < 9) : Faultless (readOne b addr off k s) := by
  interval_cases k <;> simp [readOne]

theorem readMany_faultless {addr : Byte} {k : Nat} (hn : 2 ≤ n.toNat) (hk : k < 18)
    (hrem : manyRemOk n.toNat s.rem.toNat k = true) : Faultless (readMany b addr off n k s) := by
  have haddr : ∀ j < 4, Faultless (addrPhase b (selRead addr) State.advance j s) := fun _ => addrPhase_faultless
  interval_cases k
  · exact haddr 0 (by decide)
  · exact haddr 1 (by decide)
  · exact haddr 2 (by decide)
  · exact haddr 3 (by decide)
  · exact faultless_next _
  · exact faultless_next _
  · exact poll_faultless _ _ _ _ s
  · have hrange : 3 ≤ s.rem.toNat ∧ s.rem.toNat ≤ n.toNat := of_decide_eq_true hrem
    exact takeByte_faultless (by omega)
  · exact faultless_next _
  · have hrange : 3 ≤ s.rem.toNat ∧ s.rem.toNat ≤ n.toNat := of_decide_eq_true hrem
    exact countDown_faultless (by omega)
  · exact poll_faultless _ _ _ _ s
  · have htwo : s.rem.toNat = 2 := of_decide_eq_true hrem
    exact takeByte_faultless (by omega)
  · exact faultless_next _
  · exact faultless_next _
  · have htwo : s.rem.toNat = 2 := of_decide_eq_true hrem
    exact countDown_faultless (by omega)
  · exact poll_faultless _ _ _ _ s
  · have hone : s.rem.toNat = 1 := of_decide_eq_true hrem
    exact takeByte_faultless (by omega)
  · have hone : s.rem.toNat = 1 := of_decide_eq_true hrem
    exact countDown_faultless (by omega)

theorem readStep_faultless {addr : Byte} {k : Nat} (hn : n ≠ 0) (hl : LegalAt (.read b addr off n) k s.rem) :
    Faultless (readStep b addr off n k s) := by
  unfold readStep
  split
  · subst n
    exact readOne_faultless hl.1
  · rename_i hn1
    obtain ⟨hk, hrem⟩ := (legalAt_read_many hn1 k s.rem).1 hl
    unfold readManyIndex
    split
    · exact faultless_next _
    · exact readMany_faultless (by bv_omega) hk hrem

theorem configureStep_faultless {k : Nat} (hk : k < 12) : Faultless (configureStep b k s) := by
  unfold configureStep
  rw [List.getElem?_eq_getElem (show k < (configureWrites s.cfg b).length from hk)]
  exact faultless_next _

theorem stopStep_faultless {k : Nat} (hk : k < 1) : Faultless (stopStep b k s) := by
  interval_cases k
  exact faultless_next _

theorem rtcinitStep_faultless {k : Nat} (hk : k < 17) : Faultless (rtcinitStep k s) := by
  interval_cases k <;> simp [rtcinitStep]

@[simp] theorem writeTime_faultless : Faultless (writeTime s) := by
  unfold writeTime
  split <;> simp

theorem rtcsetStep_faultless {k : Nat} (hk : k < 10) : Faultless (rtcsetStep k s) := by
  interval_cases k <;> simp [rtcsetStep]

theorem rtcgetStep_faultless {k : Nat} (hk : k < 3) : Faultless (rtcgetStep k s) := by
  interval_cases k <;> simp [rtcgetStep]

end

theorem bodyOf_faultless {i : Instr} {k : Nat} {s : State} (hz : countIsZero i = false) (hl : LegalAt i k s.rem) :
    Faultless (bodyOf i k s) := by
  cases i with
  | configure b => exact configureStep_faultless hl.1
  | start b => exact startPhase_faultless hl.1
  | sendaddr b sel => exact addrPhase_faultless hl.1
  | write b addr off n => exact writeStep_faultless hl
  | wrdata b off n => exact dataPhase_faultless hl.1 hl.2
  | read b addr off n => exact readStep_faultless (by simpa [countIsZero] using hz) hl
  | stop b => exact stopStep_faultless hl.1
  | rtcinit => exact rtcinitStep_faultless hl.1
  | rtcset => exact rtcsetStep_faultless hl.1
  | rtcget => exact rtcgetStep_faultless hl.1

theorem exec_faultless {s : State} (h : Inv s) (i : Instr) : Faultless (exec i s) := by
  rcases exec_cases i s with ⟨-, heq⟩ | ⟨k, hrun, heq⟩ | ⟨_, _, -, -, heq⟩ <;> rw [heq]
  · exact accept_faultless i _ s
  · obtain ⟨hseq, hinstr⟩ := State.running_some hrun
    obtain ⟨hruns, hlegal⟩ := (seqOk_iff hseq hinstr).1 h.seq
    exact bodyOf_faultless hruns.count hlegal
  · exact faultless_refused _

theorem whenIdle_faultless (s : State) {r : Result} (hr : Faultless r) : Faultless (whenIdle s r) := by
  unfold whenIdle
  split
  · exact faultless_refused _
  · exact hr

theorem expand_faultless (ok : Bool) (items : List HostItem) (s : State) : Faultless (expand ok items s) := by
  cases ok
  · exact faultless_refused _
  · exact faultless_next _

/-- Of the host's actions only a command could fault. -/
theorem hostTurn_faultless {s : State} (hexec : ∀ i, Faultless (exec i s)) (it : HostItem) : Faultless (hostTurn it s) := by
  unfold hostTurn
  split
  · exact faultless_next _
  cases it.act with
  | cmd w =>
    refine whenIdle_faultless s ?_
    unfold writeCmd
    split
    · exact hexec _
    · exact faultless_next _
  | bufWrite i v => exact whenIdle_faultless s (faultless_next _)
  | bufRead i => exact whenIdle_faultless s (faultless_next _)
  | trecWrite f v => exact whenIdle_faultless s (faultless_next _)
  | trecRead f => exact whenIdle_faultless s (faultless_next _)
  | statusRead => exact faultless_next _
  | reset => exact faultless_next _
  | foreignWrite d f v =>
    dsimp only [hostAct]
    split
    · exact faultless_refused _
    · exact faultless_next _
  | eeWrite b dev page n => exact whenIdle_faultless s (expand_faultless _ _ s)
  | eeRead b dev page n => exact whenIdle_faultless s (expand_faultless _ _ s)

theorem sequencerTurn_faultless {s : State} (hexec : ∀ i, Faultless (exec i s)) : Faultless (sequencerTurn s) := by
  unfold sequencerTurn
  split
  · exact hexec _
  · exact faultless_next _

/-- Settles O10: under the invariant the sequencer is at a micro-step of its command's list, with `rem` in the range that the buffer
index and the decrement need; the host's actions fault only as the command they present. -/
theorem noStepFaultsUnderTheInvariant : Obligations.NoStepFaultsUnderTheInvariant := by
  intro s f h
  have hexec : ∀ host i, Faultless (exec i { s with host := host }) := fun host => exec_faultless (h.setHost host)
  refine (show Faultless (step s) from ?_) f
  unfold step
  split
  · exact sequencerTurn_faultless (hexec s.host)
  · split
    · exact hostTurn_faultless (hexec _) _
    · exact sequencerTurn_faultless (hexec _)

end Sys2Proof.Machine
end

section
/-! The statements about the encoding (30_encoding): decoding and encoding are inverse, which words are illegal, and what acceptance
does with a command that is legal or has no meaning. -/

namespace Sys2Proof.Machine

/-! ### Decoding and encoding -/

/-- A command whose bus exists is read back from its word: the fields its format does not use are packed as 0, and those it uses
come out of the word as they went in (30_encoding R71, R72). -/
theorem decode_encode {nBus : Nat} {i : Instr} (h : i.wf nBus = true) : decode nBus (encode i) = .ok i := by
  cases i <;> simp [decode, encode, decodeChecked_ok, h]

/-- A word with `z = 0` that has this opcode is packed from it and its other fields (30_encoding R71). -/
theorem pack_fields_of_op {w : Word} {k : Nat} (hz : fieldZ w = 0) (hop : (fieldOp w).toNat = k) :
    packFields (BitVec.ofNat 4 k) (fieldB w) (fieldCnt w) (fieldOff w) (fieldArg w) = w := by
  rw [← hop, BitVec.ofNat_toNat, BitVec.setWidth_eq, pack_fields w hz]

/-- The command a word decodes to has that word, the fields its format does not use being 0 (30_encoding R75), and its bus exists. -/
theorem encode_of_decode {nBus : Nat} {w : Word} {i : Instr} (h : decode nBus w = .ok i) : encode i = w ∧ i.wf nBus = true := by
  simp only [decode] at h
  split at h
  · cases h
  · rename_i hz
    have hpack {k : Nat} := pack_fields_of_op (w := w) (k := k) (not_not.1 hz)
    split at h <;> rename_i hop
    case h_11 => cases h
    all_goals
      obtain ⟨hunused, hwf, rfl⟩ := decodeChecked_ok.1 h
      refine ⟨?_, hwf⟩
      simp only [Bool.and_eq_true, beq_iff_eq] at hunused
      simpa [encode, hunused] using hpack hop

/-- Settles O1. -/
theorem decodeOfEncodeIsTheCommand : Obligations.DecodeOfEncodeIsTheCommand := fun _ _ => decode_encode

/-- Settles O2. -/
theorem decodedWordIsTheEncoding : Obligations.DecodedWordIsTheEncoding := fun _ _ _ => encode_of_decode

/-- Settles O3: fixed words. -/
theorem workedEncodingsOfTheSpec : Obligations.WorkedEncodingsOfTheSpec := by
  unfold Obligations.WorkedEncodingsOfTheSpec
  decide

/-! ### Illegal words -/

/-- A run of bits is 0 when its low and its high part are. -/
theorem extractLsb'_add_eq_zero {n : Nat} (x : BitVec n) (start low high : Nat) :
    x.extractLsb' start (high + low) = 0 ↔ x.extractLsb' (start + low) high = 0 ∧ x.extractLsb' start low = 0 := by
  have hbits (start len : Nat) : x.extractLsb' start len = 0 ↔ ∀ k < len, x.getLsbD (start + k) = false := by
    simp [BitVec.eq_of_getLsbD_eq_iff]
  simp only [hbits]
  refine ⟨fun h => ⟨fun k hk => ?_, fun k hk => h k (by omega)⟩, fun ⟨hhigh, hlow⟩ k hk => ?_⟩
  · rw [Nat.add_assoc]
    exact h (low + k) (by omega)
  · rcases Nat.lt_or_ge k low with hk' | hk'
    · exact hlow k hk'
    · have := hhigh (k - low) (by omega)
      rwa [show start + low + (k - low) = start + k by omega] at this

section
variable (w : Word)

/-- Bits 23:8 are `cnt` and `off` (30_encoding R71). -/
theorem cnt_off_eq_zero : w.extractLsb' 8 16 = 0 ↔ fieldCnt w = 0 ∧ fieldOff w = 0 := extractLsb'_add_eq_zero w 8 8 8

/-- Bits 23:0 are `cnt`, `off` and `arg` (30_encoding R71). -/
theorem cnt_off_arg_eq_zero : w.extractLsb' 0 24 = 0 ↔ (fieldCnt w = 0 ∧ fieldOff w = 0) ∧ fieldArg w = 0 := by
  rw [← cnt_off_eq_zero]
  exact extractLsb'_add_eq_zero w 0 8 16

/-- Bits 27:0 are `b`, `z`, `cnt`, `off` and `arg` (30_encoding R71). -/
theorem b_z_cnt_off_arg_eq_zero :
    w.extractLsb' 0 28 = 0 ↔ (fieldB w = 0 ∧ fieldZ w = 0) ∧ (fieldCnt w = 0 ∧ fieldOff w = 0) ∧ fieldArg w = 0 := by
  have hbz : w.extractLsb' 24 4 = 0 ↔ fieldB w = 0 ∧ fieldZ w = 0 := extractLsb'_add_eq_zero w 24 2 2
  rw [← cnt_off_arg_eq_zero, ← hbz]
  exact extractLsb'_add_eq_zero w 0 24 4

end

/-- What a checked decode rejects. -/
theorem decodeChecked_error {nBus : Nat} {u : Bool} {i : Instr} :
    (∃ e, decodeChecked nBus u i = .error e) ↔ u = false ∨ i.wf nBus = false := by
  unfold decodeChecked; split <;> [split; skip] <;> simp_all

/-- R75's list of illegal words, read field by field. -/
theorem illegalWord_iff_fields {nBus : Nat} {w : Word} :
    IllegalWord nBus w ↔
      let op := (fieldOp w).toNat
      let unused := (fieldCnt w = 0 ∧ fieldOff w = 0) ∧ fieldArg w = 0
      op = 0 ∨ 0xB ≤ op ∨ fieldZ w ≠ 0 ∨ ((op = 1 ∨ op = 2 ∨ op = 7) ∧ ¬unused) ∨
        (op = 3 ∧ ¬(fieldCnt w = 0 ∧ fieldOff w = 0)) ∨ (op = 5 ∧ fieldArg w ≠ 0) ∨
        ((op = 8 ∨ op = 9 ∨ op = 0xA) ∧ ¬((fieldB w = 0 ∧ fieldZ w = 0) ∧ unused)) ∨
        (1 ≤ op ∧ op ≤ 7 ∧ nBus ≤ (fieldB w).toNat) := by
  simp only [IllegalWord, ne_eq, cnt_off_eq_zero, cnt_off_arg_eq_zero, b_z_cnt_off_arg_eq_zero]
  exact Iff.rfl

/-- The decoder rejects what R75 calls illegal: `z`, then opcode by opcode the fields its format does not use and the bus handle. -/
theorem illegalWord_iff_decode_error (nBus : Nat) (w : Word) : IllegalWord nBus w ↔ ∃ e, decode nBus w = .error e := by
  rw [illegalWord_iff_fields]
  simp only [decode]
  split
  · rename_i hz
    exact iff_of_true (.inr (.inr (.inl hz))) ⟨_, rfl⟩
  · rename_i hz
    rw [not_not] at hz
    split
    case h_11 =>
      have hop : (fieldOp w).toNat = 0 ∨ 0xB ≤ (fieldOp w).toNat := by
        simp only [imp_false] at *
        omega
      simp [← or_assoc, hop]
    all_goals
      rename_i hop
      simp [hop, hz, decodeChecked_error, Instr.wf, Instr.bus?, and_assoc]

/-- Settles O4: what the decoder rejects, and the step that presents such a word to an idle block. -/
theorem illegalWordOnlySetsErr : Obligations.IllegalWordOnlySetsErr := by
  refine ⟨illegalWord_iff_decode_error, fun s w timing rest hs hh hw => ?_⟩
  obtain ⟨e, he⟩ := (illegalWord_iff_decode_error _ _).1 hw
  rw [step_idle_act hs hh, hostAct, whenIdle_of_idle (by exact hs), writeCmd]
  simp [he, State.raise, ErrKind.code, hs]

/-! ### Acceptance -/

/-- The checks let pass a byte count that is not 0 and a bus that is configured, where the command has them (60_exceptions R183). -/
theorem acceptCheck_eq_none_iff {i : Instr} {s : State} :
    acceptCheck i s = none ↔
      (s.cfg.checked = true → countIsZero i = false ∧ ∀ b, needsConfigured i = some b → busGet s.configured b = true) := by
  by_cases hc : s.cfg.checked = true
  · by_cases hz : countIsZero i = true
    · simp [acceptCheck, hc, hz]
    · cases hb : needsConfigured i <;> simp [acceptCheck, hc, hz, hb]
  · simp [acceptCheck, hc]

/-- What the spec refuses of a command that is acceptable: nothing. -/
theorem gateOf_eq_none {i : Instr} {s : State} (h : Acceptable i s) : gateOf i s = none := by
  obtain ⟨-, hcount, -, hheld, htime⟩ := h
  cases i with
  | configure b => simp [gateOf, configureGate, hheld b rfl]
  | write | wrdata | read => simpa [gateOf, countGate, countIsZero] using hcount
  | rtcset => simp [gateOf, rtcsetGate, htime rfl]
  | _ => rfl

/-- Settles O18: no check and no gate stops the command, so it begins. -/
theorem legalCommandIsAccepted : Obligations.LegalCommandIsAccepted := by
  intro i s hs h
  have hgate := gateOf_eq_none h
  obtain ⟨hwf, hcount, hconf, -, -⟩ := h
  have hcheck : acceptCheck i s = none := acceptCheck_eq_none_iff.2 fun hc => ⟨hcount, hconf hc⟩
  refine ⟨_, (exec_idle hs).trans (accept_ok hwf hcheck hgate), ?_, rfl, rfl, ?_⟩
  · simp [StepTo, State.accepted, State.begin, State.latch, record]
  · simp [State.running]

/-- A command that no check stops is refused where the spec gives it no meaning (93 U1, U3, U5). -/
theorem exec_idle_refused {i : Instr} {s : State} {r : Refusal} (hs : s.seq = .idle) (hwf : i.wf s.cfg.nBus = true)
    (hcheck : acceptCheck i s = none) (hgate : gateOf i s = some r) : exec i s = .refused r := by
  simp [exec_idle hs, accept, hwf, hcheck, hgate]

/-- A byte count of 0 has no meaning (30_encoding R76). -/
theorem gateOf_of_countIsZero {i : Instr} (h : countIsZero i = true) (s : State) : gateOf i s = some .byteCountZero := by
  cases i with
  | write | wrdata | read => simpa [gateOf, countGate, countIsZero] using h
  | _ => cases h

/-- Settles O20: the three gates, behind checks that are off or have nothing to test. -/
theorem refusedAtAcceptance : Obligations.RefusedAtAcceptance := by
  refine ⟨fun i s hs hwf hc hz => ?_, fun b s hs hb hheld => ?_, fun s hs htime => ?_⟩
  · exact exec_idle_refused hs hwf (acceptCheck_eq_none_iff.2 (by simp [hc])) (gateOf_of_countIsZero hz s)
  · exact exec_idle_refused hs (decide_eq_true hb) (acceptCheck_eq_none_iff.2 fun _ => ⟨rfl, nofun⟩) (if_pos hheld)
  · exact exec_idle_refused hs rfl (acceptCheck_eq_none_iff.2 fun _ => ⟨rfl, nofun⟩)
      (if_pos (by simpa [or_assoc] using htime))

end Sys2Proof.Machine
end

section
/-! The next state, whole: what the work of a micro-step makes of a state, and where the sequencer goes from there
(40_i2c_master R100 to R111). -/

namespace Sys2Proof.Machine

/-! ### Moves and effects -/

/-- From micro-step `k` of `c`, `g` moves the sequencer to `q` and does nothing else. -/
def Leads (c : Cmd) (k : Nat) (g : State → State) (q : Seq) : Prop :=
  ∀ w : State, w.seq = .run c k → g w = { w with seq := q }

section
variable {c : Cmd} {k : Nat}

theorem leads_advance : Leads c k State.advance (.run c (k + 1)) := fun w h => by simp [State.advance, h]

theorem leads_goto (j : Nat) : Leads c k (State.goto j) (.run c j) := fun w h => by simp [State.goto, h]

theorem leads_finish : Leads c k State.finish .idle := fun _ _ => rfl

end

/-- `F` changes neither the sequencer and its operands nor the trace and the environment, and does not depend on them. -/
structure Effect (F : State → State) : Prop where
  /-- Trace, record, sequencer and environment pass through. -/
  frame : ∀ (s : State) (tr : List Event) (ri : List (Nat × Val)) (q : Seq) (env : Env) (draws : Nat),
    F { s with tr := tr, ri := ri, seq := q, env := env, draws := draws } =
      { F s with tr := tr, ri := ri, seq := q, env := env, draws := draws }
  /-- The operands stay latched. -/
  lat : ∀ s, (F s).lat = s.lat
  /-- The count of a poll stays. -/
  polls : ∀ s, (F s).polls = s.polls

/-- Setting `rem`. -/
def State.setRem (r : Byte) (s : State) : State := { s with rem := r }

theorem Effect.tr {F : State → State} (hF : Effect F) (s : State) : (F s).tr = s.tr :=
  (congrArg State.tr (hF.frame s s.tr s.ri s.seq s.env s.draws) :)

theorem Effect.ri {F : State → State} (hF : Effect F) (s : State) : (F s).ri = s.ri :=
  (congrArg State.ri (hF.frame s s.tr s.ri s.seq s.env s.draws) :)

theorem Effect.env {F : State → State} (hF : Effect F) (s : State) : (F s).env = s.env :=
  (congrArg State.env (hF.frame s s.tr s.ri s.seq s.env s.draws) :)

theorem effect_id : Effect id := ⟨fun _ _ _ _ _ _ => rfl, fun _ => rfl, fun _ => rfl⟩

theorem effect_setHeld (b : BitVec 2) (x : Bool) : Effect (State.setHeld b x) :=
  ⟨fun _ _ _ _ _ _ => rfl, fun _ => rfl, fun _ => rfl⟩

theorem effect_setConfigured (b : BitVec 2) : Effect (State.setConfigured b) :=
  ⟨fun _ _ _ _ _ _ => rfl, fun _ => rfl, fun _ => rfl⟩

theorem effect_setRem (r : Byte) : Effect (State.setRem r) := ⟨fun _ _ _ _ _ _ => rfl, fun _ => rfl, fun _ => rfl⟩

theorem effect_writeBuf (a : Nat) (v : Byte) : Effect (State.writeBuf a v) :=
  ⟨fun _ _ _ _ _ _ => rfl, fun _ => rfl, fun _ => rfl⟩

theorem Effect.comp {F G : State → State} (hF : Effect F) (hG : Effect G) : Effect (fun s => F (G s)) :=
  ⟨fun s _ _ _ _ _ => by rw [hG.frame, hF.frame], fun s => (hF.lat _).trans (hG.lat s),
    fun s => (hF.polls _).trans (hG.polls s)⟩

section
variable {x u w t : State} {es fs : List Event} {q q' : Seq} {F g : State → State}

theorem StepTo.leads {c : Cmd} {k : Nat} (hw : StepTo x w es (.run c k)) (hg : Leads c k g q) : StepTo x (g w) es q := by
  have hseq : w.seq = .run c k := by rw [hw]
  rw [hg w hseq]
  exact congrArg (fun w : State => { w with seq := q }) hw

/-- A stretch, said with its last environment and count of free values. -/
theorem stepTo_iff : StepTo x w es q ↔ ∃ env draws, w = { x with
    tr := x.tr ++ es, ri := record x.ri es, seq := q, env := env, draws := draws } :=
  ⟨fun h => ⟨_, _, h⟩, by rintro ⟨env, draws, rfl⟩; rfl⟩

theorem StepTo.effect (hF : Effect F) (hw : StepTo x w es q) : StepTo (F x) (F w) es q := by
  obtain ⟨env, draws, rfl⟩ := stepTo_iff.1 hw
  exact stepTo_iff.2 ⟨env, draws, by rw [hF.frame, hF.tr, hF.ri]⟩

/-- Two stretches in a row; the second one has the effect `F`. -/
theorem StepTo.trans (h : StepTo x u es q) (hF : Effect F) (ht : StepTo (F u) t fs q') : StepTo (F x) t (es ++ fs) q' := by
  obtain ⟨env, draws, rfl⟩ := stepTo_iff.1 h
  obtain ⟨env', draws', rfl⟩ := stepTo_iff.1 ht
  exact stepTo_iff.2 ⟨env', draws', by rw [hF.frame]; simp only [hF.tr, hF.ri, record_append, List.append_assoc]⟩

end

/-! ### One micro-step -/

section
variable {i : Instr} {k : Nat} {s x w : State} {es : List Event} {q : Seq} {F g : State → State}

/-- The work of a micro-step makes `w` of the state, with the effect and the event that `x` and `es` say; then on to `q`. -/
theorem exec_to (hr : s.running = some (i, k)) (hg : Leads (cmdOf i) k g q) (hb : bodyOf i k s = .next (g w))
    (hw : StepTo x w es s.seq) : ∃ t, exec i s = .next t ∧ StepTo x t es q := by
  rw [(State.running_some hr).1] at hw
  exact ⟨g w, (exec_running hr).trans hb, hw.leads hg⟩

/-- The read that ends a poll, with the effect `F` that comes with it (20_memory R56). -/
theorem exec_poll_to {d : Dev} {f : Flag} {want : BitVec 1} (hr : s.running = some (i, k)) (hF : Effect F)
    (hg : Leads (cmdOf i) k g q) (hb : bodyOf i k s = poll d f want (fun t => g (F t)) s) (hf : s.flagBit f = want) :
    ∃ t, exec i s = .next t ∧ StepTo (F { s with polls := 0 }) t [.rdF d f want] q := by
  subst hf
  have hw : StepTo { s with polls := 0 } (s.rdF d f).clearPolls [.rdF d f (s.flagBit f)] s.seq := rfl
  refine exec_to hr hg ?_ (hw.effect hF)
  rw [hb, poll_satisfied rfl, State.clearPolls_countPoll]

/-- W1, G5: one way or the other, without an event. -/
theorem exec_branch_to {p : Prop} [Decidable p] {j : Nat} (hr : s.running = some (i, k))
    (hb : bodyOf i k s = .next (if p then s.goto j else s.advance)) :
    ∃ t, exec i s = .next t ∧ StepTo s t [] (.run (cmdOf i) (if p then j else k + 1)) := by
  by_cases hp : p
  · simp only [if_pos hp] at hb ⊢
    exact exec_to hr (leads_goto j) hb (by simp [StepTo])
  · simp only [if_neg hp] at hb ⊢
    exact exec_to hr leads_advance hb (by simp [StepTo])

theorem exec_setRem_to {r : Byte} (hr : s.running = some (i, k)) (hg : Leads (cmdOf i) k g q)
    (hb : bodyOf i k s = .next (g { s with rem := r })) :
    ∃ t, exec i s = .next t ∧ StepTo { s with rem := r } t [] q :=
  exec_to hr hg hb (by simp [StepTo])

theorem countDown_next (hne : s.rem ≠ 0) : countDown g s = .next (g { s with rem := s.rem - 1 }) := if_neg hne

/-- A decrement (40_i2c_master R113). -/
theorem exec_countDown_to (hr : s.running = some (i, k)) (hg : Leads (cmdOf i) k g q) (hb : bodyOf i k s = countDown g s)
    (hne : s.rem ≠ 0) : ∃ t, exec i s = .next t ∧ StepTo { s with rem := s.rem - 1 } t [] q :=
  exec_setRem_to hr hg (hb.trans (countDown_next hne))

/-- W3 (40_i2c_master R106). -/
theorem exec_sendByte_to {b : BitVec 2} {off n : Byte} (hr : s.running = some (i, k)) (hb : bodyOf i k s = sendByte b off n s)
    (h1 : 1 ≤ s.rem.toNat) (h2 : s.rem.toNat ≤ n.toNat) :
    ∃ (v : Byte) (t : State), exec i s = .next t ∧ StepTo s t [.wrR (.i2c b) .dr (.byte v)] (.run (cmdOf i) (k + 1)) ∧
      ∀ x, Memory.get? s.buf (off.toNat + n.toNat - s.rem.toNat) = some x → v = x := by
  obtain ⟨v, dr, hsend, hv⟩ := sendByte_spec (b := b) (off := off) h1 h2
  obtain ⟨t, ht, hto⟩ := exec_to (x := s) (es := [.wrR (.i2c b) .dr (.byte v)]) hr leads_advance (hb.trans hsend) rfl
  exact ⟨v, t, ht, hto, hv⟩

theorem takeByte_next {b : BitVec 2} {off n : Byte} (h1 : 1 ≤ s.rem.toNat) (h2 : s.rem.toNat ≤ n.toNat) :
    takeByte b off n s =
      .next ((s.rdDr (.i2c b)).writeBuf (off.toNat + n.toNat - s.rem.toNat) s.drByte).advance := by
  simp [takeByte, bufIndex, h1, h2]

/-- T1: the START write, and what it adds to the TX projection (10_state R35, 40_i2c_master R112). -/
theorem exec_start_to {b : BitVec 2} (hr : s.running = some (i, k))
    (hb : bodyOf i k s = .next (s.wrF (.i2c b) .start (.bit 1)).advance) :
    ∃ t, exec i s = .next t ∧ StepTo s t [.wrF (.i2c b) .start (.bit 1)] (.run (cmdOf i) (k + 1)) ∧
      (Inv s → txProjection b t.tr = txProjection b s.tr ++ [if busGet s.held b then .sr else .s]) := by
  obtain ⟨t, ht, hto⟩ := exec_to (x := s) (es := [.wrF (.i2c b) .start (.bit 1)]) hr leads_advance hb rfl
  refine ⟨t, ht, hto, fun hi => ?_⟩
  have htr : t.tr = s.tr ++ [.wrF (.i2c b) .start (.bit 1)] := by rw [hto]
  rw [htr, txProjection_append, hi.held]
  simp [txFrom, txItem]

end

/-! ### The micro-step lists -/

/-- Settles O26: P0 is the STOP write, and it clears `held[b]`. -/
theorem stopMicroStep : Obligations.StopMicroStep := fun _ _ hr => exec_to hr leads_finish rfl rfl

theorem configureEvents_eq (c : Config) (b : BitVec 2) :
    configureEvents c b = (configureWrites c b).map fun p => .wrF p.1 p.2.1 p.2.2 := rfl

theorem configureStep_next {b : BitVec 2} {k : Nat} {s : State} {p : Dev × Field × Val}
    (hwrite : (configureWrites s.cfg b)[k]? = some p) :
    bodyOf (.configure b) k s = .next
      (if k = 11 then ((s.wrF p.1 p.2.1 p.2.2).setConfigured b).finish else (s.wrF p.1 p.2.1 p.2.2).advance) := by
  simp only [bodyOf, configureStep, hwrite]

/-- Settles O23: micro-step `k` makes write `k` of the list. -/
theorem configureMicroSteps : Obligations.ConfigureMicroSteps := by
  intro b k e s hr he
  rw [configureEvents_eq, List.getElem?_map, Option.map_eq_some_iff] at he
  obtain ⟨p, hwrite, rfl⟩ := he
  have hbody := configureStep_next hwrite
  refine ⟨fun hk => ?_, fun hk => ?_⟩
  · rw [if_neg (by omega)] at hbody
    exact exec_to hr leads_advance hbody rfl
  · rw [if_pos hk] at hbody
    exact exec_to hr leads_finish hbody rfl

/-- Settles O24, one micro-step of R102 after the other. -/
theorem startMicroSteps : Obligations.StartMicroSteps := by
  refine fun b s => ⟨fun hr => ?_, fun hr => ?_, fun hr hf => ?_⟩
  · exact exec_to hr leads_advance rfl rfl
  · exact exec_start_to hr rfl
  · exact exec_poll_to hr (effect_setHeld b true) leads_finish rfl hf

/-- Settles O25, one micro-step of R103 after the other. -/
theorem sendaddrMicroSteps : Obligations.SendaddrMicroSteps := by
  refine fun b sel s => ⟨fun hr => ?_, fun hr hf => ?_, fun hr => ?_, fun hr => ?_⟩
  · exact exec_to hr leads_advance rfl rfl
  · exact exec_poll_to hr effect_id leads_advance rfl hf
  · exact exec_to hr leads_advance rfl rfl
  · exact exec_to hr leads_finish rfl rfl

/-- Settles O27, one micro-step after the other: T0 to T2, A0 to A3, W0 to W5. -/
theorem writeMicroSteps : Obligations.WriteMicroSteps := by
  intro b addr off n k s hr
  refine ⟨?_, ?_, ?_, ?_, ?_, ?_, ?_, ?_, ?_, ?_, ?_, ?_, ?_⟩ <;> rintro rfl
  · exact exec_to hr leads_advance rfl rfl
  · exact exec_start_to hr rfl
  · exact exec_poll_to hr (effect_setHeld b true) leads_advance rfl
  · exact exec_to hr leads_advance rfl rfl
  · exact exec_poll_to hr effect_id leads_advance rfl
  · exact exec_to hr leads_advance rfl rfl
  · exact exec_to hr leads_advance rfl rfl
  · exact exec_setRem_to hr leads_advance rfl
  · exact exec_branch_to hr rfl
  · exact exec_poll_to hr effect_id leads_advance rfl
  · exact exec_sendByte_to hr rfl
  · exact exec_countDown_to hr (leads_goto 8) rfl
  · exact exec_poll_to hr effect_id leads_finish rfl

/-- Settles O28, one micro-step of R106 after the other. -/
theorem wrdataMicroSteps : Obligations.WrdataMicroSteps := by
  intro b off n k s hr
  refine ⟨?_, ?_, ?_, ?_, ?_, ?_⟩ <;> rintro rfl
  · exact exec_setRem_to hr leads_advance rfl
  · exact exec_branch_to hr rfl
  · exact exec_poll_to hr effect_id leads_advance rfl
  · exact exec_sendByte_to hr rfl
  · exact exec_countDown_to hr (leads_goto 1) rfl
  · exact exec_poll_to hr effect_id leads_finish rfl

/-- Settles O29, one micro-step of R109 after the other; Q2 to Q6 are events with no wait. -/
theorem readOneByteMicroSteps : Obligations.ReadOneByteMicroSteps := by
  intro b addr off k s hr
  refine ⟨?_, ?_, ?_, ?_, ?_, ?_, ?_, ?_, ?_⟩ <;> rintro rfl
  · exact exec_to hr leads_advance rfl rfl
  · exact exec_poll_to hr effect_id leads_advance rfl
  iterate 5 · exact exec_to hr leads_advance rfl rfl
  · exact exec_poll_to hr effect_id leads_advance rfl
  · exact exec_to hr leads_finish rfl rfl

/-- Settles O30, one micro-step of R110 after the other; only the first depends on RD_ADDR_ALL (R111). -/
theorem readManyBytesMicroSteps : Obligations.ReadManyBytesMicroSteps := by
  intro b addr off n k s hn hr
  have hbody (j : Nat) : bodyOf (.read b addr off n) (j + 1) s = readMany b addr off n (j + 1) s :=
    bodyOf_read_many_succ hn j s
  have hfirst : bodyOf (.read b addr off n) 0 s = readMany b addr off n (readManyIndex s.cfg.rdAddrAll 0) s :=
    bodyOf_read_many hn 0 s
  refine ⟨?_, ?_, ?_, ?_, ?_, ?_, ?_, ?_, ?_, ?_, ?_, ?_, ?_, ?_⟩
  · rintro rfl hall
    rw [hall] at hfirst
    exact exec_to hr leads_advance hfirst rfl
  · rintro rfl
    exact exec_poll_to hr effect_id leads_advance (hbody 0)
  · rintro rfl
    exact exec_to hr leads_advance (hbody 1) rfl
  · rintro rfl
    exact exec_to hr leads_advance (hbody 2) rfl
  · rintro (rfl | ⟨rfl, hall⟩)
    · exact exec_setRem_to hr (leads_goto 5) (hbody 3)
    · rw [hall] at hfirst
      exact exec_setRem_to hr (leads_goto 5) hfirst
  · rintro rfl
    exact exec_branch_to hr (hbody 4)
  · rintro (rfl | rfl | rfl) <;> exact exec_poll_to hr effect_id leads_advance (hbody _)
  · rintro (rfl | rfl | rfl) h1 h2 <;>
      exact exec_to hr leads_advance ((hbody _).trans (takeByte_next h1 h2)) rfl
  · rintro rfl
    exact exec_to hr leads_advance (hbody 7) rfl
  · rintro rfl
    exact exec_countDown_to hr (leads_goto 5) (hbody 8)
  · rintro rfl
    exact exec_to hr leads_advance (hbody 11) rfl
  · rintro rfl
    exact exec_to hr leads_advance (hbody 12) rfl
  · rintro rfl
    exact exec_countDown_to hr leads_advance (hbody 13)
  · rintro rfl
    exact exec_countDown_to hr leads_finish (hbody 16)

end Sys2Proof.Machine
end

section
/-! Whole commands, from acceptance to `done`, followed forward (40_i2c_master R101 to R111). -/

namespace Sys2Proof.Machine

/-! ### Reads that the environment answers -/

/-- A read of a register while the environment has an answer. -/
theorem State.rdWord_oracle {s : State} {d : Dev} {r : Reg} {a : Word} {rest : List Word} (h : s.env = .oracle (a :: rest)) :
    s.regWord r = a ∧ (s.rdWord d r).env = .oracle rest := by
  simp [State.regWord, State.askReg, Env.answerReg, h]

/-- A read of DR while the environment has an answer. -/
theorem State.rdDr_oracle {s : State} {d : Dev} {a : Word} {rest : List Word} (h : s.env = .oracle (a :: rest)) :
    s.drByte = a.setWidth 8 ∧ (s.rdDr d).env = .oracle rest := by
  simp [State.drByte, State.askReg, Env.answerReg, h]

/-! ### How far a command has come -/

/-- `m` calls of `exec i` lead from `s` to the state `x` with the events `es` emitted, the sequencer at `q`, no poll in progress and
the environment `env`. -/
def Reached (i : Instr) (s : State) (m : Nat) (x : State) (es : List Event) (q : Seq) (env : Env) : Prop :=
  ∃ u, runExec i m s = .next u ∧ StepTo x u es q ∧ u.env = env ∧ x.lat = latOf i ∧ x.polls = 0

/-- The last call is the one that ends the command. -/
theorem runExec_last {i : Instr} {m : Nat} {s t : State} (h : runExec i (m + 1) s = .next t) :
    ∃ u, runExec i m s = .next u ∧ exec i u = .next t := by
  induction m generalizing s with
  | zero => exact ⟨s, rfl, runExec_one h⟩
  | succ m ih =>
    cases he : exec i s with
    | next v =>
      rw [runExec_next he] at h ⊢
      exact ih h
    | fault r => simp [runExec, he] at h
    | refused r => simp [runExec, he] at h

/-- The statements' form of a command that has come to its end. -/
theorem Reached.completes {i : Instr} {s x : State} {m : Nat} {es : List Event} {env : Env}
    (h : Reached i s (m + 1) x es .idle env) :
    ∃ u t, runExec i m s = .next u ∧ exec i u = .next t ∧ t.env = env ∧ StepTo x t es .idle := by
  obtain ⟨t, hrun, hto, henv, -, -⟩ := h
  obtain ⟨u, hu, ht⟩ := runExec_last hrun
  exact ⟨u, t, hu, ht, henv, hto⟩

/-- A command that is acceptable begins (30_encoding R82). -/
theorem Acceptable.reached {i : Instr} {s : State} (ha : Acceptable i s) (hs : s.seq = .idle) :
    Reached i s 1 (s.accepted i) [] (.run (cmdOf i) 0) s.env.newCommand := by
  have hgate := gateOf_eq_none ha
  obtain ⟨hwf, hcount, hconf, -, -⟩ := ha
  have hcheck : acceptCheck i s = none := acceptCheck_eq_none_iff.2 fun hc => ⟨hcount, hconf hc⟩
  refine ⟨_, runExec_next ((exec_idle hs).trans (accept_ok hwf hcheck hgate)), ?_, rfl, rfl, rfl⟩
  simp [StepTo, State.accepted, State.begin, State.latch]

/-- On a ready bus every I2C command with a byte count, if it has one, is acceptable; CONFIGURE has its own condition. -/
theorem Ready.acceptable {b : BitVec 2} {i : Instr} {s : State} (h : Ready b s) (hb : needsConfigured i = some b)
    (hz : countIsZero i = false) : Acceptable i s := by
  obtain ⟨-, hbus, hconf⟩ := h
  refine ⟨?_, hz, fun hc c hcb => ?_, ?_, ?_⟩
  · cases i <;> cases hb <;> exact decide_eq_true hbus
  · cases hb.symm.trans hcb
    exact hconf hc
  · rintro c rfl
    cases hb
  · rintro rfl
    cases hb

theorem Ready.reached {b : BitVec 2} {i : Instr} {s : State} {answers : List Word} (h : Ready b s) (he : s.env = .oracle answers)
    (hb : needsConfigured i = some b) (hz : countIsZero i = false) :
    Reached i s 1 (s.accepted i) [] (.run (cmdOf i) 0) (.oracle answers) := by
  have := (h.acceptable hb hz).reached h.1
  rwa [he] at this

section
variable {i : Instr} {s x : State} {m k : Nat} {es : List Event} {env : Env} {q : Seq} {g : State → State} {b : BitVec 2}

theorem StepTo.running {u : State} (h : StepTo x u es (.run (cmdOf i) k)) (hlat : x.lat = latOf i) :
    u.running = some (i, k) := by
  have hseq : u.seq = .run (cmdOf i) k := by rw [h]
  have hulat : u.lat = latOf i := by rw [h]; exact hlat
  have hinstr : instrOf (cmdOf i) (latOf i) = i := by cases i <;> rfl
  rw [State.running_of_run hseq, hulat, hinstr]

theorem Reached.cast {m' : Nat} {es' : List Event} (h : Reached i s m x es q env) (hm : m = m') (hes : es = es') :
    Reached i s m' x es' q env := by
  subst hm hes
  exact h

/-- One micro-step with the effect `F`. -/
theorem Reached.micro {F : State → State} {fs : List Event} {env' : Env} (h : Reached i s m x es (.run (cmdOf i) k) env)
    (hF : Effect F) (hg : Leads (cmdOf i) k g q)
    (hb : ∀ u, StepTo x u es (.run (cmdOf i) k) → u.env = env →
      ∃ w, bodyOf i k u = .next (g w) ∧ StepTo (F u) w fs u.seq ∧ w.env = env') :
    Reached i s (m + 1) (F x) (es ++ fs) q env' := by
  obtain ⟨u, hrun, hto, henv, hlat, hpolls⟩ := h
  obtain ⟨w, hbody, hw, hwenv⟩ := hb u hto henv
  have hseq : u.seq = .run (cmdOf i) k := by rw [hto]
  rw [hseq] at hw
  have hgw : g w = { w with seq := q } := hg w (by rw [hw])
  refine ⟨g w, ?_, hto.trans hF (hw.leads hg), ?_, (hF.lat x).trans hlat, (hF.polls x).trans hpolls⟩
  · rw [runExec_add hrun, runExec_next ((exec_running (hto.running hlat)).trans hbody)]
    rfl
  · rw [hgw]
    exact hwenv

/-! One rule for each kind of micro-step. -/

section
variable (h : Reached i s m x es (.run (cmdOf i) k) env) (hg : Leads (cmdOf i) k g q)
include h hg

theorem Reached.wrF {d : Dev} {f : Field} {v : Val}
    (hb : ∀ u, StepTo x u es (.run (cmdOf i) k) → bodyOf i k u = .next (g (u.wrF d f v))) :
    Reached i s (m + 1) x (es ++ [.wrF d f v]) q (env.onWrF f v) :=
  h.micro effect_id hg fun u hu he => ⟨_, hb u hu, rfl, by rw [State.wrF_env, he]⟩

theorem Reached.wrR {d : Dev} {r : Reg} {v : Val}
    (hb : ∀ u, StepTo x u es (.run (cmdOf i) k) → bodyOf i k u = .next (g (u.wrR d r v))) :
    Reached i s (m + 1) x (es ++ [.wrR d r v]) q (env.onWrR r v) :=
  h.micro effect_id hg fun u hu he => ⟨_, hb u hu, rfl, by rw [State.wrR_env, he]⟩

/-- The STOP write (10_state R34). -/
theorem Reached.stop (hb : ∀ u, bodyOf i k u = .next (g (u.requestStop b))) :
    Reached i s (m + 1) (x.setHeld b false) (es ++ [.wrF (.i2c b) .stop (.bit 1)]) q (env.onWrF .stop (.bit 1)) :=
  h.micro (effect_setHeld b false) hg fun u _ he => ⟨_, hb u, rfl, by rw [State.requestStop_env, he]⟩

/-- A micro-step that only decides where to go on. -/
theorem Reached.move (hb : ∀ u, StepTo x u es (.run (cmdOf i) k) → bodyOf i k u = .next (g u)) :
    Reached i s (m + 1) x es q env := by
  have := h.micro effect_id hg fun u hu he => ⟨_, hb u hu, (by simp [StepTo] : StepTo u u [] u.seq), he⟩
  rwa [List.append_nil] at this

theorem Reached.setRem {r : Byte}
    (hb : ∀ u, StepTo x u es (.run (cmdOf i) k) → bodyOf i k u = .next (g { u with rem := r })) :
    Reached i s (m + 1) (x.setRem r) es q env := by
  have := h.micro (effect_setRem r) hg fun u hu he =>
    ⟨_, hb u hu, (by simp [StepTo, State.setRem] : StepTo (u.setRem r) { u with rem := r } [] u.seq), he⟩
  rwa [List.append_nil] at this

/-- A decrement (40_i2c_master R113). -/
theorem Reached.countDown {r : Byte} (hb : ∀ u, bodyOf i k u = Machine.countDown g u) (hne : x.rem ≠ 0) (hr : x.rem - 1 = r) :
    Reached i s (m + 1) (x.setRem r) es q env :=
  h.setRem hg fun u hu => by
    have hrem : u.rem = x.rem := by rw [hu]
    rw [hb, countDown_next (hrem ▸ hne), hrem, hr]

/-- One execution of `poll`, all its reads, with the effect `F` of its end (20_memory R56). -/
theorem Reached.waitThen {F : State → State} {d : Dev} {f : Flag} {want : BitVec 1} {w : Wait} {rest : List Word} (hF : Effect F)
    (hb : ∀ u, bodyOf i k u = poll d f want (fun t => g (F t)) u) (hw : w.ok want x.cfg.pollLimit)
    (henv : env = .oracle (w.answers ++ rest)) :
    Reached i s (m + (w.fails.length + 1)) (F x) (es ++ w.events d f want) q (.oracle rest) := by
  subst henv
  obtain ⟨u, hrun, hto, hu, hlat, hpolls⟩ := h
  obtain ⟨hfails, hlast, hlimit⟩ := hw
  have hucfg : u.cfg = x.cfg := by rw [hto]
  have hupolls : u.polls = 0 := by rw [hto]; exact hpolls
  have hseq : u.seq = .run (cmdOf i) k := by rw [hto]
  have hpoll := runExec_wait hb w.fails (hto.running hlat) hfails hlast
    (fun l hl => by rw [hupolls, Nat.zero_add]; exact hlimit l (hucfg ▸ hl)) (by simpa [Wait.answers] using hu)
  have hv : StepTo u { u with
      tr := u.tr ++ w.events d f want, ri := record u.ri (w.events d f want), env := .oracle rest, polls := 0 }
      (w.events d f want) (.run (cmdOf i) k) := by simp [StepTo, hupolls, hseq]
  refine ⟨_, (runExec_add hrun).trans hpoll, hto.trans hF ((hv.effect hF).leads hg), ?_, (hF.lat x).trans hlat,
    (hF.polls x).trans hpolls⟩
  rw [hg _ (by rw [hv.effect hF]), hF.env]

theorem Reached.wait {d : Dev} {f : Flag} {want : BitVec 1} {w : Wait} {rest : List Word}
    (hb : ∀ u, bodyOf i k u = poll d f want g u) (hw : w.ok want x.cfg.pollLimit) (henv : env = .oracle (w.answers ++ rest)) :
    Reached i s (m + (w.fails.length + 1)) x (es ++ w.events d f want) q (.oracle rest) :=
  h.waitThen hg effect_id hb hw henv

/-- A read of SR1 or SR2. -/
theorem Reached.rdWord {d : Dev} {r : Reg} {a : Word} {rest : List Word} (hb : ∀ u, bodyOf i k u = .next (g (u.rdWord d r)))
    (henv : env = .oracle (a :: rest)) :
    Reached i s (m + 1) x (es ++ [.rdR d r (.word a)]) q (.oracle rest) :=
  h.micro effect_id hg fun u _ he => by
    obtain ⟨hval, hrest⟩ := State.rdWord_oracle (d := d) (r := r) (he.trans henv)
    exact ⟨_, hb u, by rw [← hval]; rfl, hrest⟩

/-- A read of DR whose byte goes to a cell, with the effect `F` of the same micro-step. -/
theorem Reached.take {F : State → State} {cell : Nat} {a : Word} {rest : List Word} (hF : Effect F)
    (hb : ∀ u, StepTo x u es (.run (cmdOf i) k) →
      bodyOf i k u = .next (g (F ((u.rdDr (.i2c b)).writeBuf cell u.drByte))))
    (henv : env = .oracle (a :: rest)) :
    Reached i s (m + 1) (F (x.writeBuf cell (a.setWidth 8))) (es ++ [.rdR (.i2c b) .dr (.byte (a.setWidth 8))]) q
      (.oracle rest) :=
  h.micro (F := fun u => F (u.writeBuf cell (a.setWidth 8))) (hF.comp (effect_writeBuf _ _)) hg fun u hu he => by
    obtain ⟨hval, hrest⟩ := State.rdDr_oracle (d := .i2c b) (he.trans henv)
    have hread : StepTo u (u.rdDr (.i2c b)) [.rdR (.i2c b) .dr (.byte (a.setWidth 8))] u.seq := by rw [← hval]; rfl
    refine ⟨_, hb u hu, ?_, ?_⟩
    · rw [hval]
      exact hread.effect (F := fun u => F (u.writeBuf cell (a.setWidth 8))) (hF.comp (effect_writeBuf _ _))
    · rw [hF.env]
      exact hrest

end

/-! ### The phases -/

/-- T0 to T2 (R102). -/
theorem Reached.start {sb : Wait} {rest : List Word}
    (h : Reached i s m x es (.run (cmdOf i) 0) (.oracle (sb.answers ++ rest)))
    (hb : ∀ j u, j < 3 → bodyOf i j u = startPhase b g j u) (hg : Leads (cmdOf i) 2 g q) (hsb : sb.ok 1 x.cfg.pollLimit) :
    Reached i s (m + sb.fails.length + 3) (x.setHeld b true)
      (es ++ [.wrF (.i2c b) .ack (.bit 1), .wrF (.i2c b) .start (.bit 1)] ++ sb.events (.i2c b) .sb 1) q (.oracle rest) := by
  have h1 := h.wrF leads_advance fun u _ => hb 0 u (by decide)
  have h2 := h1.wrF leads_advance fun u _ => hb 1 u (by decide)
  have h3 := h2.waitThen hg (effect_setHeld b true) (fun u => hb 2 u (by decide)) hsb rfl
  exact h3.cast (by omega) (by simp)

/-- A0 to A3 (R103), from where they stand in the list. -/
theorem Reached.address {base : Nat} {sel : Byte} {ad : Wait} {x1 x2 : Word} {rest : List Word}
    (h : Reached i s m x es (.run (cmdOf i) base) (.oracle (ad.answers ++ x1 :: x2 :: rest)))
    (h0 : ∀ u, u.cfg = x.cfg → bodyOf i base u = addrPhase b sel g 0 u)
    (hb : ∀ j u, j < 3 → bodyOf i (base + (j + 1)) u = addrPhase b sel g (j + 1) u) (hg : Leads (cmdOf i) (base + 3) g q)
    (had : ad.ok 1 x.cfg.pollLimit) :
    Reached i s (m + ad.fails.length + 4) x (es ++ addrEvents b sel ad x1 x2) q (.oracle rest) := by
  have h1 := h.wrR leads_advance fun u hu => h0 u (by rw [hu])
  have h2 := h1.wait leads_advance (fun u => hb 0 u (by decide)) had rfl
  have h3 := h2.rdWord leads_advance (fun u => hb 1 u (by decide)) rfl
  have h4 := h3.rdWord hg (fun u => hb 2 u (by decide)) rfl
  exact h4.cast (by omega) (by simp [addrEvents])

theorem dataEvents_cons (b : BitVec 2) (p : Wait × Byte) (sent : List (Wait × Byte)) (btf : Wait) :
    dataEvents b (p :: sent) btf = p.1.events (.i2c b) .txe 1 ++ [.wrR (.i2c b) .dr (.byte p.2)] ++ dataEvents b sent btf := by
  simp [dataEvents]

/-- W3 with a cell that has been written. -/
theorem sendByte_next {off n v : Byte} {u : State} (h1 : 1 ≤ u.rem.toNat) (h2 : u.rem.toNat ≤ n.toNat)
    (hv : Memory.get? u.buf (off.toNat + n.toNat - u.rem.toNat) = some v) :
    sendByte b off n u = .next (u.wrR (.i2c b) .dr (.byte v)).advance := by
  simp [sendByte, bufIndex, h1, h2, State.readBuf, hv]

section
variable {off n : Byte} {base : Nat} {btf : Wait} {rest : List Word}
  (hb : ∀ j u, bodyOf i (base + j) u = dataPhase b off n base j u)
include hb

/-- From W1 on (R106), with the bytes `sent` to go, from cell `a` on: each after its TXE wait, then the BTF wait. -/
theorem Reached.dataLoop (sent : List (Wait × Byte)) : ∀ {m a : Nat} {x : State} {es : List Event},
    Reached i s m x es (.run (cmdOf i) (base + 1)) (.oracle (sent.flatMap (fun p => p.1.answers) ++ (btf.answers ++ rest))) →
    x.rem.toNat = sent.length → sent.length ≤ n.toNat → a + sent.length = off.toNat + n.toNat →
    (∀ j p, sent[j]? = some p → Memory.get? x.buf (a + j) = some p.2) →
    (∀ p ∈ sent, p.1.ok 1 x.cfg.pollLimit) → btf.ok 1 x.cfg.pollLimit →
    ∃ m', Reached i s (m' + 1) (x.setRem 0) (es ++ dataEvents b sent btf) .idle (.oracle rest) := by
  induction sent with
  | nil =>
    intro m a x es h hrem _ _ _ _ hbtf
    have hz : x.rem = 0 := BitVec.eq_of_toNat_eq hrem
    have hx : x.setRem 0 = x := by rw [← hz]; rfl
    have h1 := h.move (leads_goto (base + 5)) fun u hu => by
      have hu0 : u.rem = 0 := by rw [hu]; exact hz
      simp [hb, dataPhase, hu0]
    rw [hx]
    exact ⟨_, h1.wait leads_finish (hb 5) hbtf rfl⟩
  | cons p sent ih =>
    intro m a x es h hrem hle ha hcells hok hbtf
    rw [List.length_cons] at hrem hle ha
    have hne : x.rem ≠ 0 := by bv_omega
    have h1 := h.move leads_advance fun u hu => by
      have hu0 : ¬ u.rem = 0 := by rw [hu]; exact hne
      simp only [hb, dataPhase, if_neg hu0]
    have h2 := h1.wait (rest := sent.flatMap (fun p => p.1.answers) ++ (btf.answers ++ rest)) leads_advance (hb 2)
      (hok p (by simp)) (by simp)
    have h3 := h2.wrR leads_advance fun u hu => by
      have hurem : u.rem.toNat = sent.length + 1 := by rw [hu]; exact hrem
      have hcell : off.toNat + n.toNat - u.rem.toNat = a := by omega
      refine (hb 3 u).trans (sendByte_next (v := p.2) (by omega) (by omega) ?_)
      rw [hcell, hu]
      exact hcells 0 p rfl
    have h4 := h3.countDown (leads_goto (base + 1)) (hb 4) hne rfl
    obtain ⟨m', hend⟩ := ih (a := a + 1) h4 (show (x.rem - 1).toNat = sent.length by bv_omega) (by omega) (by omega)
      (fun j p hp => by rw [Nat.add_assoc, Nat.add_comm 1]; exact hcells (j + 1) p hp) (fun p hp => hok p (by simp [hp])) hbtf
    exact ⟨m', hend.cast rfl (by simp [dataEvents_cons])⟩

/-- W0 to W5 (R106). -/
theorem Reached.data {sent : List (Wait × Byte)}
    (h : Reached i s m x es (.run (cmdOf i) base) (.oracle (sent.flatMap (fun p => p.1.answers) ++ (btf.answers ++ rest))))
    (hlen : sent.length = n.toNat)
    (hcells : ∀ j p, sent[j]? = some p → Memory.get? x.buf (off.toNat + j) = some p.2)
    (hok : ∀ p ∈ sent, p.1.ok 1 x.cfg.pollLimit) (hbtf : btf.ok 1 x.cfg.pollLimit) :
    ∃ m', Reached i s (m' + 1) (x.setRem 0) (es ++ dataEvents b sent btf) .idle (.oracle rest) := by
  have hload := h.setRem (r := n) leads_advance fun u _ => hb 0 u
  exact hload.dataLoop hb sent hlen.symm hlen.le (by rw [hlen]) hcells hok hbtf

end

/-- A byte of READ: its RXNE wait, and the byte to its cell (20_memory R67). -/
theorem Reached.byte {off n : Byte} {p : Wait × Word} {rest : List Word} {a : Nat}
    (h : Reached i s m x es (.run (cmdOf i) k) (.oracle (p.1.answers ++ p.2 :: rest)))
    (hwait : ∀ u, bodyOf i k u = poll (.i2c b) .rxne 1 State.advance u) (htake : ∀ u, bodyOf i (k + 1) u = takeByte b off n u)
    (hok : p.1.ok 1 x.cfg.pollLimit) (hpos : 1 ≤ x.rem.toNat) (hle : x.rem.toNat ≤ n.toNat)
    (ha : a + x.rem.toNat = off.toNat + n.toNat) :
    Reached i s (m + (p.1.fails.length + 1) + 1) (x.writeBuf a (p.2.setWidth 8))
      (es ++ p.1.events (.i2c b) .rxne 1 ++ [.rdR (.i2c b) .dr (.byte (p.2.setWidth 8))]) (.run (cmdOf i) (k + 2))
      (.oracle rest) := by
  refine (h.wait leads_advance hwait hok rfl).take leads_advance effect_id (fun u hu => ?_) rfl
  have hurem : u.rem = x.rem := by rw [hu]
  have hcell : off.toNat + n.toNat - x.rem.toNat = a := by omega
  rw [htake, takeByte_next (hurem ▸ hpos) (hurem ▸ hle), hurem, hcell]
  rfl

/-- What a READ of these bytes, two or more, leaves of the block: the bytes in rising cells, the bus released, `rem` 0 (R110). -/
def State.received (b : BitVec 2) (a : Nat) (bytes : List Byte) (s : State) : State :=
  { s with held := busSet s.held b false, rem := 0, buf := writeBytes s.buf a bytes }

section
variable {addr off n : Byte} {rest : List Word} (hn : n ≠ 1)
include hn

/-- From G10 on, with two bytes to go (R110). -/
theorem Reached.readLastTwo {p p' : Wait × Word} {a : Nat}
    (h : Reached (.read b addr off n) s m x es (.run .read 10) (.oracle (p.1.answers ++ p.2 :: (p'.1.answers ++ p'.2 :: rest))))
    (hrem : x.rem.toNat = 2) (hle : 2 ≤ n.toNat) (ha : a + 2 = off.toNat + n.toNat) (hok : p.1.ok 1 x.cfg.pollLimit)
    (hok' : p'.1.ok 1 x.cfg.pollLimit) :
    ∃ m', Reached (.read b addr off n) s (m' + 1) (x.received b a [p.2.setWidth 8, p'.2.setWidth 8])
      (es ++ readEvents b [(p.1, p.2.setWidth 8), (p'.1, p'.2.setWidth 8)]) .idle (.oracle rest) := by
  have hbody := bodyOf_read_many_succ (b := b) (addr := addr) (off := off) hn
  have h1 := h.byte (a := a) (hbody 9) (hbody 10) hok (by omega) (by omega) (by omega)
  have h2 := h1.wrF leads_advance fun u _ => hbody 11 u
  have h3 := h2.stop leads_advance fun u => hbody 12 u
  have h4 := h3.countDown (r := 1) leads_advance (hbody 13) (show x.rem ≠ 0 by bv_omega) (show x.rem - 1 = 1 by bv_omega)
  have h5 := h4.byte (a := a + 1) (hbody 14) (hbody 15) hok' (show 1 ≤ 1 from le_rfl) (show 1 ≤ n.toNat by omega) ha
  have h6 := h5.countDown (r := 0) leads_finish (hbody 16) (show (1 : Byte) ≠ 0 by decide)
    (show (1 : Byte) - 1 = 0 by decide)
  exact ⟨_, h6.cast rfl (by simp [readEvents])⟩

/-- From G5 on (R110), with the bytes `taken` to go, into the cells from `a` on. -/
theorem Reached.readLoop (taken : List (Wait × Word)) : ∀ {m a : Nat} {x : State} {es : List Event},
    Reached (.read b addr off n) s m x es (.run .read 5) (.oracle (taken.flatMap (fun p => p.1.answers ++ [p.2]) ++ rest)) →
    x.rem.toNat = taken.length → 2 ≤ taken.length → taken.length ≤ n.toNat → a + taken.length = off.toNat + n.toNat →
    (∀ p ∈ taken, p.1.ok 1 x.cfg.pollLimit) →
    ∃ m', Reached (.read b addr off n) s (m' + 1) (x.received b a (taken.map fun p => p.2.setWidth 8))
      (es ++ readEvents b (taken.map fun p => (p.1, p.2.setWidth 8))) .idle (.oracle rest) := by
  have hbody := bodyOf_read_many_succ (b := b) (addr := addr) (off := off) hn
  induction taken with
  | nil => exact fun _ _ h2 => absurd h2 (by decide)
  | cons p taken ih =>
    intro m a x es h hrem h2 hle ha hok
    simp only [List.flatMap_cons, List.append_assoc] at h
    match taken with
    | [] => exact absurd h2 (by simp)
    | [p'] =>
      have h1 := h.move (leads_goto 10) fun u hu => by
        have hu2 : u.rem.toNat ≤ 2 := by rw [hu]; exact hrem.le
        simp only [hbody 4, readMany, if_pos hu2]
      simp only [List.flatMap_cons, List.append_assoc] at h1
      exact h1.readLastTwo hn hrem hle ha (hok p (by simp)) (hok p' (by simp))
    | p' :: p'' :: taken =>
      simp only [List.length_cons] at hrem hle ha ih
      have h1 := h.move leads_advance fun u hu => by
        have hu2 : ¬ u.rem.toNat ≤ 2 := by rw [hu]; change ¬ x.rem.toNat ≤ 2; omega
        simp only [hbody 4, readMany, if_neg hu2]
      have h2 := h1.byte (a := a) (hbody 5) (hbody 6) (hok p (by simp)) (by omega) (by omega) (by omega)
      have h3 := h2.wrF leads_advance fun u _ => hbody 7 u
      have h4 := h3.countDown (leads_goto 5) (hbody 8) (show x.rem ≠ 0 by bv_omega) rfl
      obtain ⟨m', hend⟩ := ih (a := a + 1) h4 (show (x.rem - 1).toNat = _ by bv_omega) (by omega) (by omega) (by omega)
        (fun p hp => hok p (List.mem_cons_of_mem _ hp))
      exact ⟨m', hend.cast rfl (by simp [readEvents])⟩

end

end

/-! ### The commands -/

/-- Settles O37: STOP is accepted, and P0 ends it. -/
theorem stopRunsToCompletion : Obligations.StopRunsToCompletion := by
  intro b s hready
  have hend := ((hready.acceptable (i := .stop b) rfl rfl).reached hready.1).stop leads_finish fun _ => rfl
  obtain ⟨u, t, hrun, hlast, -, hto⟩ := hend.completes
  exact ⟨u, t, hrun, hlast, hto⟩

/-- Settles O35: acceptance, then T0 to T2. -/
theorem startRunsToCompletion : Obligations.StartRunsToCompletion := by
  intro b s sb rest hready hsb henv
  have hend := (hready.reached (i := .start b) henv rfl rfl).start (fun _ _ _ => rfl) leads_finish hsb
  exact (hend.cast (by omega) (by simp)).completes

/-- Settles O36: acceptance, then A0 to A3. -/
theorem sendaddrRunsToCompletion : Obligations.SendaddrRunsToCompletion := by
  intro b sel s ad x1 x2 rest hready had henv
  rw [List.append_assoc] at henv
  have hend := (hready.reached (i := .sendaddr b sel) henv rfl rfl).address (base := 0) (fun _ _ => rfl)
    (fun _ _ _ => by rw [Nat.zero_add]; rfl) leads_finish had
  exact (hend.cast (by omega) (by simp)).completes

/-- Settles O39: acceptance, then W0 to W5. -/
theorem wrdataRunsToCompletion : Obligations.WrdataRunsToCompletion := by
  intro b off n s btf sent rest hready hn hlen hcells hok hbtf henv
  rw [List.append_assoc] at henv
  obtain ⟨m, hend⟩ := (hready.reached (i := .wrdata b off n) henv rfl (by simpa [countIsZero] using hn)).data (base := 0)
    (fun _ _ => by rw [Nat.zero_add]; rfl) hlen hcells hok hbtf
  exact ⟨m, hend.completes⟩

/-- From W0 on, WRITE is the data phase. -/
theorem bodyOf_write_data (b : BitVec 2) (addr off n : Byte) (j : Nat) (u : State) :
    bodyOf (.write b addr off n) (7 + j) u = dataPhase b off n 7 j u := by
  have h3 : ¬ 7 + j < 3 := by omega
  have h7 : ¬ 7 + j < 7 := by omega
  simp [bodyOf, writeStep, h3, h7]

/-- Settles O38: acceptance, then the three phases. -/
theorem writeRunsToCompletion : Obligations.WriteRunsToCompletion := by
  intro b addr off n s sb ad btf x1 x2 sent rest hready hn hlen hcells hsb had hok hbtf henv
  simp only [List.append_assoc] at henv
  have h0 := hready.reached (i := .write b addr off n) henv rfl (by simpa [countIsZero] using hn)
  have h1 := h0.start (fun j _ hj => by interval_cases j <;> rfl) leads_advance hsb
  have h2 := h1.address (base := 3) (sel := selWrite addr) (fun _ _ => rfl) (fun j _ hj => by interval_cases j <;> rfl)
    leads_advance had
  obtain ⟨m, hend⟩ := h2.data (bodyOf_write_data b addr off n) hlen hcells hok hbtf
  exact ⟨m, (hend.cast rfl (by simp [selWrite])).completes⟩

/-- C0 to C10 leave the block as accepted. -/
theorem configure_reached {b : BitVec 2} {s : State} (hs : s.seq = .idle) (ha : Acceptable (.configure b) s) (k : Nat)
    (hk : k ≤ 11) : ∃ env, Reached (.configure b) s (k + 1) (s.accepted (.configure b)) ((configureEvents s.cfg b).take k)
      (.run .configure k) env := by
  induction k with
  | zero => exact ⟨_, ha.reached hs⟩
  | succ k ih =>
    obtain ⟨env, h⟩ := ih (by omega)
    obtain ⟨p, hwrite⟩ : ∃ p, (configureWrites s.cfg b)[k]? = some p :=
      ⟨_, List.getElem?_eq_getElem (show k < (configureWrites s.cfg b).length by change k < 12; omega)⟩
    have h1 := h.wrF leads_advance fun u hu => by
      have hucfg : u.cfg = s.cfg := by rw [hu]; rfl
      exact (configureStep_next (hucfg ▸ hwrite)).trans (by rw [if_neg (by omega)])
    exact ⟨_, h1.cast rfl (by simp [List.take_add_one, configureEvents_eq, hwrite])⟩

/-- Settles O34: the twelve writes, the last of which ends the command. -/
theorem configureRunsToCompletion : Obligations.ConfigureRunsToCompletion := by
  intro b s hs hb hheld
  have ha : Acceptable (.configure b) s :=
    ⟨decide_eq_true hb, rfl, fun _ _ => nofun, fun c hc => by cases hc; exact hheld, nofun⟩
  obtain ⟨env, h⟩ := configure_reached hs ha 11 le_rfl
  have hend := h.micro (env' := env.onWrF .pe (.bit 1)) (effect_setConfigured b) leads_finish
    fun u _ he => ⟨_, rfl, rfl, congrArg (fun e : Env => e.onWrF .pe (.bit 1)) he⟩
  obtain ⟨u, t, hrun, hlast, -, hto⟩ := hend.completes
  exact ⟨u, t, hrun, hlast, hto⟩

/-- Settles O40: the list of READ of one byte (R109). -/
theorem readOneByteRunsToCompletion : Obligations.ReadOneByteRunsToCompletion := by
  intro b addr off s ad rx x1 x2 v rest hready had hrx henv
  simp only [List.append_assoc] at henv
  have h0 := hready.reached (i := .read b addr off 1) henv rfl rfl
  have h1 := h0.wrR leads_advance fun _ _ => rfl
  have h2 := h1.wait leads_advance (fun _ => rfl) had rfl
  have h3 := h2.wrF leads_advance fun _ _ => rfl
  have h4 := h3.wrF leads_advance fun _ _ => rfl
  have h5 := h4.rdWord leads_advance (fun _ => rfl) rfl
  have h6 := h5.rdWord leads_advance (fun _ => rfl) rfl
  have h7 := h6.stop leads_advance fun _ => rfl
  have h8 := h7.wait leads_advance (fun _ => rfl) hrx rfl
  have hend := h8.take leads_finish (effect_setRem 0) (fun _ _ => rfl) rfl
  exact (hend.cast (by omega) (by simp [selRead])).completes

/-- Settles O41: G0 to G3 if RD_ADDR_ALL, the count, then byte by byte. -/
theorem readManyBytesRunsToCompletion : Obligations.ReadManyBytesRunsToCompletion := by
  intro b addr off n s ad x1 x2 taken rest hready hn hlen had hok henv
  have hn1 : n ≠ 1 := by bv_omega
  have hbody := bodyOf_read_many_succ (b := b) (addr := addr) (off := off) hn1
  have hz : countIsZero (.read b addr off n) = false := by
    have : n ≠ 0 := by bv_omega
    simpa [countIsZero] using this
  have h0 := hready.reached henv (i := .read b addr off n) rfl hz
  obtain ⟨m, h⟩ : ∃ m, Reached (.read b addr off n) s m ((s.accepted (.read b addr off n)).setRem n)
      (if s.cfg.rdAddrAll then addrEvents b (selRead addr) ad x1 x2 else []) (.run .read 5)
      (.oracle (taken.flatMap (fun p => p.1.answers ++ [p.2]) ++ rest)) := by
    cases hall : s.cfg.rdAddrAll with
    | false =>
      rw [hall] at h0
      refine ⟨_, h0.setRem (leads_goto 5) fun u hu => ?_⟩
      have hcfg : u.cfg.rdAddrAll = false := by rw [hu]; exact hall
      simp [bodyOf_read_many hn1, hcfg, readManyIndex, readMany]
    | true =>
      simp only [hall, if_true, List.append_assoc] at h0
      have h1 := h0.address (b := b) (base := 0) (sel := selRead addr)
        (fun u hu => by
          have hcfg : u.cfg.rdAddrAll = true := by rw [hu]; exact hall
          simp [bodyOf_read_many hn1, hcfg, readManyIndex, readMany])
        (fun j u hj => by rw [Nat.zero_add, hbody]; interval_cases j <;> rfl) leads_advance had
      exact ⟨_, h1.setRem (leads_goto 5) fun u _ => hbody 3 u⟩
  obtain ⟨m', hend⟩ := h.readLoop hn1 taken (a := off.toNat) hlen.symm (by omega) hlen.le (by rw [hlen]) hok
  exact ⟨m', hend.completes⟩

end Sys2Proof.Machine
end

section
/-! What a command on bus `b` leaves alone: a reading of the state that does not see what its micro-steps may change keeps its value
(40_i2c_master R100 to R110). -/

namespace Sys2Proof.Machine

/-! ### Readings that a micro-step keeps -/

/-- The reading `p` is the same before and after `g`. -/
def Keeps {α : Type} (p : State → α) (g : State → State) : Prop := ∀ s, p (g s) = p s

/-- The reading `p` sees neither the sequencer, its operands, the polls, the code and the environment, nor an event on a device of
which `own` holds. -/
structure Blind {α : Type} (own : Dev → Prop) (p : State → α) : Prop where
  /-- An event of the command. -/
  emit : ∀ (s : State) (e : Event), own e.name.dev → p (s.emit e) = p s
  /-- The sequencer's side and the environment. -/
  control : ∀ (s : State) (q : Seq) (l : Lat) (polls : Nat) (err : BitVec 3) (env : Env) (draws : Nat),
    p { s with seq := q, lat := l, polls := polls, err := err, env := env, draws := draws } = p s

/-- The commands that may set or clear `held[b]` (10_state R34). -/
def mayMoveHeld : Instr → Bool
  | .start _ => true
  | .write _ _ _ _ => true
  | .read _ _ _ _ => true
  | .stop _ => true
  | _ => false

/-- The commands that count bytes in `rem` (10_state R23). -/
def countsBytes : Instr → Bool
  | .write _ _ _ _ => true
  | .wrdata _ _ _ => true
  | .read _ _ _ _ => true
  | _ => false

section
variable {α : Type} {p : State → α} {g : State → State} {s w : State}

theorem Keeps.comp {f : State → State} (hg : Keeps p g) (hf : Keeps p f) : Keeps p (fun t => g (f t)) :=
  fun t => (hg (f t)).trans (hf t)

/-- The work of a micro-step and the move after it. -/
theorem keeps_next (hg : Keeps p g) (hw : p w = p s) : NextHas (.next (g w)) fun t => p t = p s :=
  (nextHas_next _ _).2 ((hg w).trans hw)

section
variable {own : Dev → Prop} (hp : Blind own p)
include hp

theorem Blind.advance : Keeps p State.advance := fun t => by
  unfold State.advance
  split
  · rfl
  · exact hp.control t _ t.lat t.polls t.err t.env t.draws

theorem Blind.goto (j : Nat) : Keeps p (State.goto j) := fun t => by
  unfold State.goto
  split
  · rfl
  · exact hp.control t _ t.lat t.polls t.err t.env t.draws

theorem Blind.finish : Keeps p State.finish := fun t => hp.control t _ t.lat t.polls t.err t.env t.draws

theorem Blind.wrF {d : Dev} (hd : own d) (f : Field) (v : Val) (s : State) : p (s.wrF d f v) = p s :=
  (hp.control (s.emit _) s.seq s.lat s.polls s.err _ s.draws).trans (hp.emit s (.wrF d f v) hd)

theorem Blind.wrR {d : Dev} (hd : own d) (r : Reg) (v : Val) (s : State) : p (s.wrR d r v) = p s :=
  (hp.control (s.emit _) s.seq s.lat s.polls s.err _ s.draws).trans (hp.emit s (.wrR d r v) hd)

theorem Blind.answered (a : Answer) (s : State) : p (s.answered a) = p s :=
  hp.control s s.seq s.lat s.polls s.err _ _

theorem Blind.rdF {d : Dev} (hd : own d) (f : Flag) (s : State) : p (s.rdF d f) = p s :=
  (hp.emit _ (.rdF d f _) hd).trans (hp.answered _ s)

theorem Blind.rdWord {d : Dev} (hd : own d) (r : Reg) (s : State) : p (s.rdWord d r) = p s :=
  (hp.emit _ (.rdR d r _) hd).trans (hp.answered _ s)

theorem Blind.rdDr {d : Dev} (hd : own d) (s : State) : p (s.rdDr d) = p s :=
  (hp.emit _ (.rdR d .dr _) hd).trans (hp.answered _ s)

theorem Blind.readBuf (a : Nat) (s : State) : p (s.readBuf a).2 = p s := by
  rw [State.readBuf_snd]
  exact hp.control s s.seq s.lat s.polls s.err s.env _

theorem Blind.poll {d : Dev} (hd : own d) {f : Flag} {want : BitVec 1} (hg : Keeps p g) :
    NextHas (poll d f want g s) fun t => p t = p s := by
  have hcount : p (s.rdF d f).countPoll = p s := by
    unfold State.countPoll
    split
    · exact hp.rdF hd f s
    · exact (hp.control (s.rdF d f) s.seq s.lat _ s.err _ _).trans (hp.rdF hd f s)
  refine nextHas_poll (fun _ => ?_) (fun _ _ => ?_) fun _ _ => hcount
  · rw [State.clearPolls_countPoll, hg]
    exact (hp.control (s.rdF d f) s.seq s.lat _ s.err _ _).trans (hp.rdF hd f s)
  · exact (hp.control (s.rdF d f).countPoll _ _ _ _ _ _).trans hcount

theorem Blind.accept (i : Instr) (gate : State → Option Refusal) : NextHas (accept i gate s) fun t => p t = p s :=
  nextHas_accept (fun _ => hp.control s _ s.lat s.polls _ s.env s.draws) (fun _ _ _ => hp.control s _ _ s.polls _ s.env s.draws)
    fun _ _ _ => hp.control s _ _ _ _ _ s.draws

/-! ### The phases and the lists -/

section
variable {b : BitVec 2} (hd : own (.i2c b))
include hd

theorem startPhase_keeps {fin : State → State} (hheld : ∀ x, Keeps p (State.setHeld b x)) (hfin : Keeps p fin) (k : Nat) :
    NextHas (startPhase b fin k s) fun t => p t = p s := by
  unfold startPhase
  split
  · exact keeps_next hp.advance (hp.wrF hd _ _ s)
  · exact keeps_next hp.advance (hp.wrF hd _ _ s)
  · exact hp.poll hd (hfin.comp (hheld true))
  · exact nextHas_fault _ _

theorem addrPhase_keeps {sel : Byte} {fin : State → State} (hfin : Keeps p fin) (k : Nat) :
    NextHas (addrPhase b sel fin k s) fun t => p t = p s := by
  unfold addrPhase
  split
  · exact keeps_next hp.advance (hp.wrR hd _ _ s)
  · exact hp.poll hd hp.advance
  · exact keeps_next hp.advance (hp.rdWord hd _ s)
  · exact keeps_next hfin (hp.rdWord hd _ s)
  · exact nextHas_fault _ _

theorem stopStep_keeps (hheld : ∀ x, Keeps p (State.setHeld b x)) (k : Nat) :
    NextHas (stopStep b k s) fun t => p t = p s := by
  unfold stopStep
  split
  · exact keeps_next hp.finish ((hheld false _).trans (hp.wrF hd _ _ s))
  · exact nextHas_fault _ _

theorem configureStep_keeps (hplat : own (.plat b)) (hconf : Keeps p (State.setConfigured b)) (k : Nat) :
    NextHas (configureStep b k s) fun t => p t = p s := by
  unfold configureStep
  split
  · rename_i d f v hwrite
    have hown : own d := by
      have hall : ∀ x ∈ configureWrites s.cfg b, own x.1 := by simp [configureWrites, hd, hplat]
      exact hall _ (List.mem_of_getElem? hwrite)
    split
    · exact keeps_next hp.finish ((hconf _).trans (hp.wrF hown f v s))
    · exact keeps_next hp.advance (hp.wrF hown f v s)
  · exact nextHas_fault _ _

section
variable {off n : Byte} (hrem : ∀ r, Keeps p (State.setRem r))
include hrem

omit hp hd in
theorem countDown_keeps (hg : Keeps p g) : NextHas (countDown g s) fun t => p t = p s := by
  unfold countDown
  split
  · exact nextHas_fault _ _
  · exact keeps_next hg (hrem _ s)

theorem dataPhase_keeps (base k : Nat) : NextHas (dataPhase b off n base k s) fun t => p t = p s := by
  unfold dataPhase
  split
  · exact keeps_next hp.advance (hrem n s)
  · split
    · exact keeps_next (hp.goto _) rfl
    · exact keeps_next hp.advance rfl
  · exact hp.poll hd hp.advance
  · unfold sendByte
    split
    · exact keeps_next hp.advance ((hp.wrR hd _ _ _).trans (hp.readBuf _ s))
    · exact nextHas_fault _ _
  · exact countDown_keeps hrem (hp.goto _)
  · exact hp.poll hd hp.finish
  · exact nextHas_fault _ _

variable (hheld : ∀ x, Keeps p (State.setHeld b x)) (hbuf : ∀ a v, Keeps p (State.writeBuf a v))
include hbuf

omit hrem in
theorem takeByte_keeps : NextHas (takeByte b off n s) fun t => p t = p s := by
  unfold takeByte
  split
  · exact keeps_next hp.advance ((hbuf _ _ _).trans (hp.rdDr hd s))
  · exact nextHas_fault _ _

include hheld

theorem readOne_keeps (addr : Byte) (k : Nat) : NextHas (readOne b addr off k s) fun t => p t = p s := by
  unfold readOne
  split
  · exact keeps_next hp.advance (hp.wrR hd _ _ s)
  · exact hp.poll hd hp.advance
  iterate 2 · exact keeps_next hp.advance (hp.wrF hd _ _ s)
  iterate 2 · exact keeps_next hp.advance (hp.rdWord hd _ s)
  · exact keeps_next hp.advance ((hheld false _).trans (hp.wrF hd _ _ s))
  · exact hp.poll hd hp.advance
  · exact keeps_next hp.finish ((hrem 0 _).trans ((hbuf _ _ _).trans (hp.rdDr hd s)))
  · exact nextHas_fault _ _

theorem readMany_keeps (addr : Byte) (k : Nat) : NextHas (readMany b addr off n k s) fun t => p t = p s := by
  unfold readMany
  split
  iterate 4 · exact addrPhase_keeps hp hd hp.advance _
  · exact keeps_next (hp.goto 5) (hrem n s)
  · split
    · exact keeps_next (hp.goto 10) rfl
    · exact keeps_next hp.advance rfl
  · exact hp.poll hd hp.advance
  · exact takeByte_keeps hp hd hbuf
  · exact keeps_next hp.advance (hp.wrF hd _ _ s)
  · exact countDown_keeps hrem (hp.goto 5)
  · exact hp.poll hd hp.advance
  · exact takeByte_keeps hp hd hbuf
  · exact keeps_next hp.advance (hp.wrF hd _ _ s)
  · exact keeps_next hp.advance ((hheld false _).trans (hp.wrF hd _ _ s))
  · exact countDown_keeps hrem hp.advance
  · exact hp.poll hd hp.advance
  · exact takeByte_keeps hp hd hbuf
  · exact countDown_keeps hrem hp.finish
  · exact nextHas_fault _ _

end

end

/-- A reading that sees nothing of what `i` may change is kept by its acceptance and by every micro-step. -/
theorem exec_keeps {i : Instr} {b : BitVec 2} (hb : i.bus? = some b) (hd : own (.i2c b))
    (hheld : mayMoveHeld i = true → ∀ x s, p (State.setHeld b x s) = p s := by intros; rfl)
    (hrem : countsBytes i = true → ∀ r s, p (State.setRem r s) = p s := by intros; rfl)
    (hbuf : countsBytes i = true → ∀ a v s, p (State.writeBuf a v s) = p s := by intros; rfl)
    (hplat : i = .configure b → own (.plat b) := by intros; trivial)
    (hconf : i = .configure b → ∀ s, p (State.setConfigured b s) = p s := by intros; rfl) :
    NextHas (exec i s) fun t => p t = p s := by
  refine nextHas_exec (fun _ => hp.accept i _) fun k _ _ => ?_
  cases i with
  | configure c =>
    cases hb
    exact configureStep_keeps hp hd (hplat rfl) (hconf rfl) k
  | start c =>
    cases hb
    exact startPhase_keeps hp hd (hheld rfl) hp.finish k
  | sendaddr c sel =>
    cases hb
    exact addrPhase_keeps hp hd hp.finish k
  | write c addr off n =>
    cases hb
    change NextHas (writeStep b addr off n k s) _
    unfold writeStep
    split
    · exact startPhase_keeps hp hd (hheld rfl) hp.advance k
    · split
      · exact addrPhase_keeps hp hd hp.advance _
      · exact dataPhase_keeps hp hd (hrem rfl) 7 _
  | wrdata c off n =>
    cases hb
    exact dataPhase_keeps hp hd (hrem rfl) 0 k
  | read c addr off n =>
    cases hb
    change NextHas (readStep b addr off n k s) _
    unfold readStep
    split
    · exact readOne_keeps hp hd (hrem rfl) (hheld rfl) (hbuf rfl) addr k
    · exact readMany_keeps hp hd (hrem rfl) (hheld rfl) (hbuf rfl) addr _
  | stop c =>
    cases hb
    exact stopStep_keeps hp hd (hheld rfl) k
  | rtcinit => cases hb
  | rtcset => cases hb
  | rtcget => cases hb

end

end

/-! ### The frame, and the devices -/

/-- A reading of the fields that no event and no move of the sequencer touches. -/
theorem blind_fields {α : Type} (p : State → α) (hemit : ∀ (s : State) (e : Event), p (s.emit e) = p s := by intros; rfl)
    (hcontrol : ∀ (s : State) (q : Seq) (l : Lat) (polls : Nat) (err : BitVec 3) (env : Env) (draws : Nat),
      p { s with seq := q, lat := l, polls := polls, err := err, env := env, draws := draws } = p s := by intros; rfl) :
    Blind (fun _ => True) p := ⟨fun s e _ => hemit s e, hcontrol⟩

/-- Settles O45: each field is a reading that sees nothing of what the command may change. -/
theorem i2cCommandsFrame : Obligations.I2cCommandsFrame := by
  intro i b s t hb h
  have hfields := (exec_keeps (blind_fields fun s => (s.trec, s.trecKnown, s.rtcState, s.host, s.seen, s.cfg)) hb trivial) t h
  simp only [Prod.mk.injEq] at hfields
  obtain ⟨htrec, hknown, hrtc, hhost, hseen, hcfg⟩ := hfields
  refine ⟨htrec, hknown, hrtc, fun hi => ?_, fun c hc => ⟨?_, ?_⟩, fun hi => ?_, fun hi => ?_, hhost, hseen, hcfg⟩
  · exact (exec_keeps (blind_fields State.configured) hb trivial (hconf := fun h => absurd h hi)) t h
  · exact (exec_keeps (blind_fields fun s => busGet s.held c) hb trivial
      (hheld := fun _ x s => busGet_busSet_other s.held b c x hc)) t h
  · exact (exec_keeps (blind_fields fun s => busGet s.configured c) hb trivial
      (hconf := fun _ s => busGet_busSet_other s.configured b c true hc)) t h
  · have hnever : mayMoveHeld i = false := by rcases hi with rfl | ⟨_, rfl⟩ | ⟨_, _, rfl⟩ <;> rfl
    exact (exec_keeps (blind_fields State.held) hb trivial (hheld := by simp [hnever])) t h
  · have hnever : countsBytes i = false := by rcases hi with rfl | rfl | rfl | ⟨_, rfl⟩ <;> rfl
    exact (exec_keeps (blind_fields State.rem) hb trivial (hrem := by simp [hnever])) t h

/-- The events on devices other than `I2C[b]`. -/
def foreignEvents (b : BitVec 2) (s : State) : List Event := s.tr.filter fun e => e.name.dev ≠ .i2c b

theorem blind_foreignEvents (b : BitVec 2) : Blind (· = .i2c b) (foreignEvents b) :=
  ⟨fun s e he => by simp [foreignEvents, he], fun _ _ _ _ _ _ _ => rfl⟩

theorem Dev.eq_of_bus?_some {d : Dev} {b : BitVec 2} (h : d.bus? = some b) : d = .i2c b ∨ d = .plat b := by
  cases d <;> simp_all [Dev.bus?]

/-- Settles O48: an event is on a device of the command's bus, and only CONFIGURE adds to the events on other devices than
`I2C[b]`. -/
theorem eventsStayOnOwnDevices : Obligations.EventsStayOnOwnDevices := by
  intro i s t e b h ht
  have hbus := (event_of_exec h ht).bus
  refine ⟨fun hb => ?_, fun hb => ?_⟩
  · by_cases hi : i = .configure b
    · exact (Dev.eq_of_bus?_some (hbus.trans hb)).imp_right fun hplat => ⟨hi, hplat⟩
    · have hkeep : foreignEvents b t = foreignEvents b s :=
        (exec_keeps (blind_foreignEvents b) hb rfl (hplat := fun h => absurd h hi)) t h
      left
      simpa [foreignEvents, ht] using hkeep
  · rw [hb] at hbus
    constructor <;> intro hdev <;> simp [hdev, Dev.bus?] at hbus

end Sys2Proof.Machine
end

section
/-! With POLL_LIMIT finite every command ends (40_i2c_master R114, 60_exceptions R185): a micro-step leaves less to do, or it is one
more read of a poll that may not go on for ever. -/

namespace Sys2Proof.Machine

/-! ### What is left to do -/

/-- A bound on the micro-steps from index `j` of the data phase to its end, a poll counted once (40_i2c_master R106): four for each
byte to go. -/
def dataWork (n rem : Byte) (j : Nat) : Nat :=
  if j = 0 then 4 * n.toNat + 7 else if j = 5 then 1 else 4 * rem.toNat + 7 - j

/-- The same in a READ of two or more bytes (R110): five for each byte of the bulk loop. -/
def manyWork (n rem : Byte) (k : Nat) : Nat :=
  if k < 5 then 5 * n.toNat + 18 - k else if k < 10 then 5 * rem.toNat + 18 - k else 18 - k

/-- The same in every command. -/
def workLeft : Instr → Nat → Byte → Nat
  | .write _ _ _ n, k, rem => if k < 7 then 4 * n.toNat + 14 - k else dataWork n rem (k - 7)
  | .wrdata _ _ n, k, rem => dataWork n rem k
  | .read _ _ _ n, k, rem => if n = 1 then 9 - k else manyWork n rem k
  | i, k, _ => stepCount (cmdOf i) 0 - k

/-- `q`, if the command goes on, has less left to do. -/
def Nearer (i : Instr) (k : Nat) (rem : Byte) (q : Option Nat) (rem' : Byte) : Prop :=
  ∀ j, q = some j → workLeft i j rem' < workLeft i k rem

theorem nearer_some {i : Instr} {k j : Nat} {rem rem' : Byte} (h : workLeft i j rem' < workLeft i k rem) :
    Nearer i k rem (some j) rem' := fun _ hj => Option.some.inj hj ▸ h

theorem nearer_none {i : Instr} {k : Nat} {rem rem' : Byte} : Nearer i k rem none rem' := nofun

/-- The command has ended, or has less left to do, or has made one more read of the poll it is at. -/
def Nears (i : Instr) (k : Nat) (s t : State) : Prop :=
  t.seq = .idle ∨ ∃ j, t.running = some (i, j) ∧
    (workLeft i j t.rem < workLeft i k s.rem ∨ (j = k ∧ t.rem = s.rem ∧ t.polls = s.polls + 1))

/-- The micro-step leads nearer to the end; it is refused only where a time field is above 99 (41_rtc_sequencer R131). -/
def Proceeds (i : Instr) (k : Nat) (s : State) (r : Result) : Prop :=
  NextHas r (Nears i k s) ∧ ∀ e, r = .refused e → i = .rtcset ∧ e = .timeFieldOver99

theorem proceeds_fault {i : Instr} {k : Nat} {s : State} (f : Fault) : Proceeds i k s (.fault f) := ⟨nextHas_fault _ _, nofun⟩

theorem proceeds_of_nears {i : Instr} {k : Nat} {s t : State} (h : Nears i k s t) : Proceeds i k s (.next t) :=
  ⟨(nextHas_next _ _).2 h, nofun⟩

/-! ### One micro-step -/

/-- `i` is at micro-step `k`, and POLL_LIMIT is finite. -/
structure LimitedAt (i : Instr) (k : Nat) (s : State) : Prop where
  /-- The sequencer. -/
  running : s.running = some (i, k)
  /-- POLL_LIMIT. -/
  limit : s.cfg.pollLimit ≠ none

section
variable {i : Instr} {k : Nat} {s w : State} {g : State → State} {q : Option Nat}

theorem nears_onward (hw : w.running = some (i, k)) (hg : Onward i k g q) (hq : Nearer i k s.rem q w.rem) :
    Nears i k s (g w) := by
  obtain ⟨hseq, hinstr⟩ := State.running_some hw
  obtain ⟨-, hlat, -, -, hrem⟩ := hg.same w
  have hnext := hg.seq w hseq
  cases q with
  | none => exact .inl hnext
  | some j =>
    refine .inr ⟨j, ?_, .inl (hrem ▸ hq j rfl)⟩
    rw [State.running_of_run hnext, hlat, hinstr]

variable (h : LimitedAt i k s)
include h

/-- The work of a micro-step, then on to `q`. -/
theorem proceeds_next (hg : Onward i k g q) (hw : w.seq = s.seq ∧ w.lat = s.lat) (hq : Nearer i k s.rem q w.rem) :
    Proceeds i k s (.next (g w)) :=
  proceeds_of_nears (nears_onward ((State.running_congr hw.1 hw.2).trans h.running) hg hq)

/-- One read of a poll; `fin` is what its end does. -/
theorem proceeds_poll {d : Dev} {f : Flag} {want : BitVec 1} (hdone : Nears i k s (g (s.rdF d f).clearPolls)) :
    Proceeds i k s (poll d f want g s) := by
  rcases poll_cases d f want g s with ⟨-, e⟩ | ⟨-, -, e⟩ | ⟨-, -, e⟩ <;> rw [e] <;> refine proceeds_of_nears ?_
  · rw [State.clearPolls_countPoll]
    exact hdone
  · exact .inl rfl
  · refine .inr ⟨k, (State.running_congr (by simp) (by simp)).trans h.running, .inr ⟨rfl, by simp, ?_⟩⟩
    obtain ⟨l, hl⟩ := Option.ne_none_iff_exists'.1 h.limit
    simp [State.countPoll, hl]

theorem proceeds_wait {d : Dev} {f : Flag} {want : BitVec 1} (hg : Onward i k g q) (hq : Nearer i k s.rem q s.rem) :
    Proceeds i k s (poll d f want g s) :=
  proceeds_poll h (nears_onward (w := (s.rdF d f).clearPolls) h.running hg hq)

theorem proceeds_countDown (hg : Onward i k g q) (hq : s.rem ≠ 0 → Nearer i k s.rem q (s.rem - 1)) :
    Proceeds i k s (countDown g s) := by
  unfold countDown
  split
  · exact proceeds_fault _
  · rename_i hne
    exact proceeds_next h (w := { s with rem := s.rem - 1 }) hg ⟨rfl, rfl⟩ (hq hne)

theorem sendByte_proceeds {b : BitVec 2} {off n : Byte} (hq : Nearer i k s.rem (some (k + 1)) s.rem) :
    Proceeds i k s (sendByte b off n s) := by
  unfold sendByte
  split
  · exact proceeds_next h onward_advance ⟨by simp, by simp⟩ (by simpa using hq)
  · exact proceeds_fault _

theorem takeByte_proceeds {b : BitVec 2} {off n : Byte} (hq : Nearer i k s.rem (some (k + 1)) s.rem) :
    Proceeds i k s (takeByte b off n s) := by
  unfold takeByte
  split
  · exact proceeds_next h onward_advance ⟨rfl, rfl⟩ hq
  · exact proceeds_fault _

end

/-! ### The lists -/

section
variable {i : Instr} {k : Nat} {s : State} {b : BitVec 2}

theorem startPhase_proceeds {fin : State → State} {q : Option Nat} (h : LimitedAt i k s) (hfin : Onward i 2 fin q)
    (hn : ∀ j < 2, Nearer i j s.rem (some (j + 1)) s.rem) (hq : Nearer i 2 s.rem q s.rem) :
    Proceeds i k s (startPhase b fin k s) := by
  unfold startPhase
  split
  · exact proceeds_next h onward_advance ⟨rfl, rfl⟩ (hn 0 (by decide))
  · exact proceeds_next h onward_advance ⟨rfl, rfl⟩ (hn 1 (by decide))
  · exact proceeds_poll h (nears_onward (w := ((s.rdF (.i2c b) .sb).clearPolls).setHeld b true) h.running hfin hq)
  · exact proceeds_fault _

theorem addrPhase_proceeds {sel : Byte} {fin : State → State} {q : Option Nat} {base : Nat} (h : LimitedAt i (base + k) s)
    (hfin : Onward i (base + 3) fin q) (hn : ∀ j < 3, Nearer i (base + j) s.rem (some (base + (j + 1))) s.rem)
    (hq : Nearer i (base + 3) s.rem q s.rem) : Proceeds i (base + k) s (addrPhase b sel fin k s) := by
  unfold addrPhase
  split
  · exact proceeds_next h onward_advance ⟨rfl, rfl⟩ (hn 0 (by decide))
  · exact proceeds_wait h onward_advance (hn 1 (by decide))
  · exact proceeds_next h onward_advance ⟨rfl, rfl⟩ (hn 2 (by decide))
  · exact proceeds_next h hfin ⟨rfl, rfl⟩ hq
  · exact proceeds_fault _

theorem dataPhase_proceeds {off n : Byte} {base : Nat} (h : LimitedAt i (base + k) s)
    (hwork : ∀ j rem, workLeft i (base + j) rem = dataWork n rem j) :
    Proceeds i (base + k) s (dataPhase b off n base k s) := by
  have hn : ∀ {j j' : Nat} {r r' : Byte}, dataWork n r' j' < dataWork n r j → Nearer i (base + j) r (some (base + j')) r' :=
    fun hlt => nearer_some (by rw [hwork, hwork]; exact hlt)
  unfold dataPhase
  split
  · exact proceeds_next h (w := { s with rem := n }) onward_advance ⟨rfl, rfl⟩ (hn (j' := 1) (by simp [dataWork]))
  · split
    · exact proceeds_next h (onward_goto _) ⟨rfl, rfl⟩ (hn (by simp [dataWork]))
    · exact proceeds_next h onward_advance ⟨rfl, rfl⟩ (hn (j' := 2) (by simp [dataWork]))
  · exact proceeds_wait h onward_advance (hn (j' := 3) (by simp [dataWork]))
  · exact sendByte_proceeds h (hn (j' := 4) (by simp [dataWork]))
  · refine proceeds_countDown h (onward_goto _) fun hne => hn (j := 4) (j' := 1) ?_
    have hlt : 4 * (s.rem - 1).toNat + 6 < 4 * s.rem.toNat + 3 := by bv_omega
    simpa [dataWork] using hlt
  · exact proceeds_wait h onward_finish nearer_none
  · exact proceeds_fault _

theorem readOne_proceeds {addr off : Byte} (h : LimitedAt (.read b addr off 1) k s) :
    Proceeds (.read b addr off 1) k s (readOne b addr off k s) := by
  have hn : ∀ j < 9, Nearer (.read b addr off 1) j s.rem (some (j + 1)) s.rem := fun j hj =>
    nearer_some (show 9 - (j + 1) < 9 - j by omega)
  unfold readOne
  split
  · exact proceeds_next h onward_advance ⟨rfl, rfl⟩ (hn 0 (by decide))
  · exact proceeds_wait h onward_advance (hn 1 (by decide))
  iterate 4 · exact proceeds_next h onward_advance ⟨rfl, rfl⟩ (hn _ (by decide))
  · exact proceeds_next h onward_advance ⟨rfl, rfl⟩ (hn 6 (by decide))
  · exact proceeds_wait h onward_advance (hn 7 (by decide))
  · exact proceeds_next h (w := { (s.rdDr (.i2c b)).writeBuf off.toNat s.drByte with rem := 0 }) onward_finish ⟨rfl, rfl⟩
      nearer_none
  · exact proceeds_fault _

theorem readMany_proceeds {addr off n : Byte} (hn1 : n ≠ 1) (h : LimitedAt (.read b addr off n) k s) :
    Proceeds (.read b addr off n) k s (readMany b addr off n k s) := by
  have hn : ∀ {j j' : Nat} {r r' : Byte}, manyWork n r' j' < manyWork n r j → Nearer (.read b addr off n) j r (some j') r' :=
    fun hlt => nearer_some (by simpa [workLeft, show n ≠ 1#8 from hn1] using hlt)
  have hstep (j : Nat) (hj : j < 17 ∧ j ≠ 4) : Nearer (.read b addr off n) j s.rem (some (j + 1)) s.rem := by
    refine hn ?_
    unfold manyWork
    split_ifs <;> omega
  have haddr (j : Nat) (h : LimitedAt (.read b addr off n) (0 + j) s) :
      Proceeds (.read b addr off n) (0 + j) s (addrPhase b (selRead addr) State.advance j s) :=
    addrPhase_proceeds h onward_advance (fun j hj => by simpa using hstep j (by omega)) (hstep 3 (by decide))
  unfold readMany
  split
  · exact haddr 0 h
  · exact haddr 1 h
  · exact haddr 2 h
  · exact haddr 3 h
  · exact proceeds_next h (w := { s with rem := n }) (onward_goto 5) ⟨rfl, rfl⟩ (hn (by simp [manyWork]))
  · split
    · exact proceeds_next h (onward_goto 10) ⟨rfl, rfl⟩ (hn (by simp [manyWork]))
    · exact proceeds_next h onward_advance ⟨rfl, rfl⟩ (hstep 5 (by decide))
  · exact proceeds_wait h onward_advance (hstep 6 (by decide))
  · exact takeByte_proceeds h (hstep 7 (by decide))
  · exact proceeds_next h onward_advance ⟨rfl, rfl⟩ (hstep 8 (by decide))
  · refine proceeds_countDown h (onward_goto 5) fun hne => hn ?_
    have hlt : (s.rem - 1).toNat < s.rem.toNat := by bv_omega
    unfold manyWork
    split_ifs <;> omega
  · exact proceeds_wait h onward_advance (hstep 10 (by decide))
  · exact takeByte_proceeds h (hstep 11 (by decide))
  · exact proceeds_next h onward_advance ⟨rfl, rfl⟩ (hstep 12 (by decide))
  · exact proceeds_next h onward_advance ⟨rfl, rfl⟩ (hstep 13 (by decide))
  · exact proceeds_countDown h onward_advance fun _ => hn (by simp [manyWork])
  · exact proceeds_wait h onward_advance (hstep 15 (by decide))
  · exact takeByte_proceeds h (hstep 16 (by decide))
  · exact proceeds_countDown h onward_finish fun _ => nearer_none
  · exact proceeds_fault _

theorem readStep_proceeds {addr off n : Byte} (h : LimitedAt (.read b addr off n) k s) :
    Proceeds (.read b addr off n) k s (readStep b addr off n k s) := by
  unfold readStep
  split
  · subst n
    exact readOne_proceeds h
  · rename_i hn1
    unfold readManyIndex
    split
    · rename_i hfirst
      obtain ⟨rfl, -⟩ := hfirst
      refine proceeds_next h (w := { s with rem := n }) (onward_goto 5) ⟨rfl, rfl⟩ (nearer_some ?_)
      simp [workLeft, manyWork, show n ≠ 1#8 from hn1]
    · exact readMany_proceeds hn1 h

theorem writeStep_proceeds {addr off n : Byte} (h : LimitedAt (.write b addr off n) k s) :
    Proceeds (.write b addr off n) k s (writeStep b addr off n k s) := by
  have hwork (j : Nat) (rem : Byte) : workLeft (.write b addr off n) (7 + j) rem = dataWork n rem j := by
    simp [workLeft]
  have hn : ∀ j < 7, Nearer (.write b addr off n) j s.rem (some (j + 1)) s.rem := fun j hj => by
    refine nearer_some ?_
    obtain rfl | hj6 : j = 6 ∨ j < 6 := by omega
    · simp [workLeft, dataWork]
    · simp only [workLeft, if_pos hj, if_pos (show j + 1 < 7 by omega)]
      omega
  unfold writeStep
  split
  · exact startPhase_proceeds h onward_advance (fun j hj => hn j (by omega)) (hn 2 (by decide))
  · split
    · obtain ⟨j, rfl⟩ := Nat.exists_eq_add_of_le (show 3 ≤ k by omega)
      rw [Nat.add_sub_cancel_left]
      exact addrPhase_proceeds h onward_advance (fun j hj => hn (3 + j) (by omega)) (hn 6 (by decide))
    · obtain ⟨j, rfl⟩ := Nat.exists_eq_add_of_le (show 7 ≤ k by omega)
      rw [Nat.add_sub_cancel_left]
      exact dataPhase_proceeds h hwork

theorem wrdata_proceeds {off n : Byte} (h : LimitedAt (.wrdata b off n) k s) :
    Proceeds (.wrdata b off n) k s (dataPhase b off n 0 k s) := by
  rw [← Nat.zero_add k] at h
  have := dataPhase_proceeds (b := b) (off := off) h fun j rem => by rw [Nat.zero_add]; rfl
  rwa [Nat.zero_add] at this

theorem sendaddr_proceeds {sel : Byte} (h : LimitedAt (.sendaddr b sel) k s) :
    Proceeds (.sendaddr b sel) k s (addrPhase b sel State.finish k s) := by
  rw [← Nat.zero_add k] at h
  have := addrPhase_proceeds (b := b) (sel := sel) h onward_finish
    (fun j hj => nearer_some (show 4 - (0 + (j + 1)) < 4 - (0 + j) by omega)) nearer_none
  rwa [Nat.zero_add] at this

theorem configureStep_proceeds (h : LimitedAt (.configure b) k s) :
    Proceeds (.configure b) k s (configureStep b k s) := by
  unfold configureStep
  split
  · rename_i d f v hwrite
    have hk : k < 12 := (List.getElem?_eq_some_iff.1 hwrite).1
    split
    · exact proceeds_next h onward_finish ⟨rfl, rfl⟩ nearer_none
    · exact proceeds_next h onward_advance ⟨rfl, rfl⟩ (nearer_some (show 12 - (k + 1) < 12 - k by omega))
  · exact proceeds_fault _

theorem stopStep_proceeds (h : LimitedAt (.stop b) k s) : Proceeds (.stop b) k s (stopStep b k s) := by
  unfold stopStep
  split
  · exact proceeds_next h onward_finish ⟨rfl, rfl⟩ nearer_none
  · exact proceeds_fault _

theorem rtcinitStep_proceeds (h : LimitedAt .rtcinit k s) : Proceeds .rtcinit k s (rtcinitStep k s) := by
  have hn : ∀ j < 17, Nearer .rtcinit j s.rem (some (j + 1)) s.rem := fun j hj =>
    nearer_some (show 17 - (j + 1) < 17 - j by omega)
  unfold rtcinitStep
  split
  iterate 3 · exact proceeds_next h onward_advance ⟨rfl, rfl⟩ (hn _ (by decide))
  · exact proceeds_wait h onward_advance (hn 3 (by decide))
  iterate 5 · exact proceeds_next h onward_advance ⟨rfl, rfl⟩ (hn _ (by decide))
  · exact proceeds_wait h (onward_advance.setRtc _) (hn 9 (by decide))
  iterate 4 · exact proceeds_next h onward_advance ⟨rfl, rfl⟩ (hn _ (by decide))
  · exact proceeds_wait h (onward_advance.setRtc _) (hn 14 (by decide))
  · exact proceeds_next h onward_advance ⟨rfl, rfl⟩ (hn 15 (by decide))
  · exact proceeds_next h onward_finish ⟨rfl, rfl⟩ nearer_none
  · exact proceeds_fault _

/-- S5 is the one micro-step that may be refused. -/
theorem writeTime_proceeds (h : LimitedAt .rtcset k s) (hq : Nearer .rtcset k s.rem (some (k + 1)) s.rem) :
    Proceeds .rtcset k s (writeTime s) := by
  unfold writeTime
  split
  · exact proceeds_next h onward_advance ⟨by simp, by simp⟩ (by simpa using hq)
  · exact ⟨nextHas_refused _ _, fun e he => ⟨rfl, (Host.Outcome.refused.inj he).symm⟩⟩

theorem rtcsetStep_proceeds (h : LimitedAt .rtcset k s) : Proceeds .rtcset k s (rtcsetStep k s) := by
  have hn : ∀ j < 10, Nearer .rtcset j s.rem (some (j + 1)) s.rem := fun j hj =>
    nearer_some (show 10 - (j + 1) < 10 - j by omega)
  unfold rtcsetStep
  split
  iterate 4 · exact proceeds_next h onward_advance ⟨rfl, rfl⟩ (hn _ (by decide))
  · exact proceeds_wait h (onward_advance.setRtc _) (hn 4 (by decide))
  · exact writeTime_proceeds h (hn 5 (by decide))
  iterate 2 · exact proceeds_next h onward_advance ⟨rfl, rfl⟩ (hn _ (by decide))
  · exact proceeds_wait h (onward_advance.setRtc _) (hn 8 (by decide))
  · exact proceeds_next h onward_finish ⟨by simp, by simp⟩ nearer_none
  · exact proceeds_fault _

theorem rtcgetStep_proceeds (h : LimitedAt .rtcget k s) : Proceeds .rtcget k s (rtcgetStep k s) := by
  have hn : ∀ j < 3, Nearer .rtcget j s.rem (some (j + 1)) s.rem := fun j hj =>
    nearer_some (show 3 - (j + 1) < 3 - j by omega)
  unfold rtcgetStep
  split
  · exact proceeds_wait h onward_advance (hn 0 (by decide))
  · exact proceeds_next h (w := s.takeTime) onward_advance ⟨by simp, by simp⟩ (by simpa using hn 1 (by decide))
  · exact proceeds_next h onward_finish ⟨rfl, rfl⟩ nearer_none
  · exact proceeds_fault _

end

theorem bodyOf_proceeds {i : Instr} {k : Nat} {s : State} (h : LimitedAt i k s) : Proceeds i k s (bodyOf i k s) := by
  cases i with
  | configure b => exact configureStep_proceeds h
  | start b =>
    exact startPhase_proceeds h onward_finish (fun j hj => nearer_some (show 3 - (j + 1) < 3 - j by omega)) nearer_none
  | sendaddr b sel => exact sendaddr_proceeds h
  | write b addr off n => exact writeStep_proceeds h
  | wrdata b off n => exact wrdata_proceeds h
  | read b addr off n => exact readStep_proceeds h
  | stop b => exact stopStep_proceeds h
  | rtcinit => exact rtcinitStep_proceeds h
  | rtcset => exact rtcsetStep_proceeds h
  | rtcget => exact rtcgetStep_proceeds h

/-! ### Termination -/

/-- Settles O17: by induction on what is left to do and, at a poll, on the reads it may still make. -/
theorem finitePollLimitEndsEveryCommand : Obligations.FinitePollLimitEndsEveryCommand := by
  intro i k l s hinv hlimit hrun
  induction hN : workLeft i k s.rem * (l + 1) + (l - s.polls) using Nat.strong_induction_on generalizing k s with
  | _ N ih =>
    subst hN
    obtain ⟨hseq, hinstr⟩ := State.running_some hrun
    obtain ⟨hruns, hlegal⟩ := (seqOk_iff hseq hinstr).1 hinv.seq
    obtain ⟨hnears, hrefused⟩ := bodyOf_proceeds (k := k) (s := s) ⟨hrun, by simp [hlimit]⟩
    rw [← exec_running hrun] at hnears hrefused
    cases hexec : exec i s with
    | fault f => exact absurd hexec (exec_faultless hinv i f)
    | refused e =>
      obtain ⟨rfl, rfl⟩ := hrefused e hexec
      exact ⟨1, .inr ⟨rfl, by simp [runExec, hexec]⟩⟩
    | next t =>
      have hinv' : Inv t := exec_keeps_inv hinv t hexec
      have hlimit' : t.cfg.pollLimit = some l := by rw [(exec_does i s t hexec).cfg, hlimit]
      rcases hnears t hexec with hidle | ⟨j, hrun', hless⟩
      · have herr := (bodyOf_micro i k s t (exec_running hrun ▸ hexec)).err
        rw [hruns.err] at herr
        exact ⟨1, .inl ⟨t, runExec_next hexec, hidle, herr.imp_right And.right⟩⟩
      · have hpolls : s.polls < l := hruns.polls l hlimit
        have hfalls : workLeft i j t.rem * (l + 1) + (l - t.polls) < workLeft i k s.rem * (l + 1) + (l - s.polls) := by
          rcases hless with hlt | ⟨rfl, hrem, hread⟩
          · have := Nat.mul_le_mul_right (l + 1) hlt
            rw [Nat.succ_mul] at this
            omega
          · rw [hrem, hread]
            omega
        obtain ⟨n, hend⟩ := ih _ hfalls j t hinv' hlimit' hrun' rfl
        exact ⟨n + 1, by rwa [runExec_next hexec]⟩

end Sys2Proof.Machine
end

section
/-! Binary-coded decimal, and the six digit fields of the time word (41_rtc_sequencer R131 to R134). -/

namespace Sys2Proof.Machine

/-! ### Digits -/

theorem tensOf_append (t u : BitVec 4) : tensOf (t ++ u) = t := BitVec.extractLsb'_append_eq_left

theorem unitsOf_append (t u : BitVec 4) : unitsOf (t ++ u) = u := BitVec.extractLsb'_append_eq_right

/-- The two digits of a value at most 99 side by side (R131). -/
theorem bcdEnc_eq {v : Byte} (hv : v.toNat ≤ 99) :
    bcdEnc v = some (BitVec.ofNat 4 (v.toNat / 10) ++ BitVec.ofNat 4 (v.toNat % 10)) := by
  rw [bcdEnc, if_pos hv]
  refine congrArg some (BitVec.eq_of_toNat_eq ?_)
  have hten : (10 : Byte).toNat = 10 := rfl
  simp only [BitVec.toNat_or, BitVec.toNat_shiftLeft, BitVec.toNat_udiv, BitVec.toNat_umod, BitVec.toNat_append, BitVec.toNat_ofNat,
    Nat.reducePow, hten]
  rw [Nat.mod_eq_of_lt (show v.toNat / 10 < 16 by omega), Nat.mod_eq_of_lt (show v.toNat % 10 < 16 by omega),
    Nat.mod_eq_of_lt (show (v.toNat / 10) <<< 4 < 256 by rw [Nat.shiftLeft_eq]; omega)]

theorem bcdEnc_eq_none {v : Byte} (hv : 99 < v.toNat) : bcdEnc v = none := if_neg (by omega)

/-- The value of two digits, decimal or not (R132). -/
theorem bcdDec_toNat (t u : BitVec 4) : (bcdDec t u).toNat = 10 * t.toNat + u.toNat := by
  have ht := t.isLt
  have hu := u.isLt
  simp only [bcdDec, BitVec.toNat_add, BitVec.toNat_mul, BitVec.toNat_setWidth, BitVec.ofNat_eq_ofNat, BitVec.toNat_ofNat]
  omega

theorem bcdDec_digits {v : Byte} (hv : v.toNat ≤ 99) :
    bcdDec (BitVec.ofNat 4 (v.toNat / 10)) (BitVec.ofNat 4 (v.toNat % 10)) = v := by
  refine BitVec.eq_of_toNat_eq ?_
  rw [bcdDec_toNat, BitVec.toNat_ofNat, BitVec.toNat_ofNat]
  omega

/-- Settles O52: the encoding is the two digits side by side. -/
theorem bcdEncodeDecode : Obligations.BcdEncodeDecode := by
  refine ⟨fun v hv => ⟨_, bcdEnc_eq hv, ?_, ?_, ?_⟩, fun v => bcdEnc_eq_none, bcdDec_toNat⟩
  · rw [tensOf_append, BitVec.toNat_ofNat]
    omega
  · rw [unitsOf_append, BitVec.toNat_ofNat]
    omega
  · rw [tensOf_append, unitsOf_append, bcdDec_digits hv]

/-! ### Digits in a word -/

/-- Two 4-bit fields that do not overlap, by their lowest bits. -/
def Apart (a b : Nat) : Prop := a + 4 ≤ b ∨ b + 4 ≤ a

theorem digitAt_bit (d : BitVec 4) (o k : Nat) : (digitAt d o).getLsbD k = (decide (k < 32) && decide (o ≤ k) && d.getLsbD (k - o)) := by
  simp only [digitAt, BitVec.getLsbD_shiftLeft, BitVec.getLsbD_setWidth]
  grind

theorem digitAt_bit_outside {d : BitVec 4} {o k : Nat} (h : k < o ∨ o + 4 ≤ k) : (digitAt d o).getLsbD k = false := by
  rw [digitAt_bit]
  rcases h with h | h
  · simp [show ¬ o ≤ k by omega]
  · simp [BitVec.getLsbD_of_ge d (k - o) (by omega)]

/-- The word with these digits at these offsets. -/
def placeDigits : List (Nat × BitVec 4) → Word
  | [] => 0
  | p :: ps => digitAt p.2 p.1 ||| placeDigits ps

theorem placeDigits_bit_outside {ps : List (Nat × BitVec 4)} {k : Nat} (h : ∀ p ∈ ps, k < p.1 ∨ p.1 + 4 ≤ k) :
    (placeDigits ps).getLsbD k = false := by
  induction ps with
  | nil => simp [placeDigits]
  | cons p ps ih =>
    rw [placeDigits, BitVec.getLsbD_or, digitAt_bit_outside (h p (by simp)), ih fun q hq => h q (by simp [hq])]
    rfl

/-- A field that overlaps none of the others holds its digit. -/
theorem placeDigits_field {ps : List (Nat × BitVec 4)} (hps : (ps.map Prod.fst).Pairwise Apart) {o : Nat} {d : BitVec 4}
    (hmem : (o, d) ∈ ps) (ho : o + 4 ≤ 32) : (placeDigits ps).extractLsb' o 4 = d := by
  refine BitVec.eq_of_getLsbD_eq fun j hj => ?_
  rw [BitVec.getLsbD_extractLsb']
  simp only [hj, decide_true, Bool.true_and]
  induction ps with
  | nil => cases hmem
  | cons p ps ih =>
    obtain ⟨hp, hrest⟩ := List.pairwise_cons.1 hps
    rw [placeDigits, BitVec.getLsbD_or]
    rcases List.mem_cons.1 hmem with rfl | hmem
    · have hothers : (placeDigits ps).getLsbD (o + j) = false := placeDigits_bit_outside fun q hq => by
        have hapart : Apart o q.1 := hp q.1 (List.mem_map_of_mem hq)
        unfold Apart at hapart
        omega
      rw [hothers, digitAt_bit, Nat.add_sub_cancel_left]
      simp [show o + j < 32 by omega]
    · have hapart : Apart p.1 o := hp o (List.mem_map_of_mem hmem)
      rw [ih hrest hmem, digitAt_bit_outside (by unfold Apart at hapart; omega), Bool.false_or]

/-! ### The time word -/

/-- The six digits of a time at their offsets. -/
def timeDigits (l : TrLayout) (h m s : Byte) : List (Nat × BitVec 4) :=
  [(l.ht, BitVec.ofNat 4 (h.toNat / 10)), (l.hu, BitVec.ofNat 4 (h.toNat % 10)), (l.mnt, BitVec.ofNat 4 (m.toNat / 10)),
   (l.mnu, BitVec.ofNat 4 (m.toNat % 10)), (l.st, BitVec.ofNat 4 (s.toNat / 10)), (l.su, BitVec.ofNat 4 (s.toNat % 10))]

theorem timeDigits_offsets (l : TrLayout) (h m s : Byte) : (timeDigits l h m s).map Prod.fst = l.offsets := rfl

/-- `pack_tr` is undefined where one of the values is above 99 (R131). -/
theorem packTr_eq_none {l : TrLayout} {h m s : Byte} (hgt : 99 < h.toNat ∨ 99 < m.toNat ∨ 99 < s.toNat) :
    packTr l h m s = none := by
  unfold packTr
  split
  · rename_i hh hm hs
    rcases hgt with hv | hv | hv <;> have hnone := bcdEnc_eq_none hv <;> simp_all
  · rfl

section
variable {l : TrLayout} {h m s : Byte} (hh : h.toNat ≤ 99) (hm : m.toNat ≤ 99) (hs : s.toNat ≤ 99)
include hh hm hs

/-- `pack_tr` of three values at most 99 (R133). -/
theorem packTr_eq : packTr l h m s = some (placeDigits (timeDigits l h m s)) := by
  simp only [packTr, bcdEnc_eq hh, bcdEnc_eq hm, bcdEnc_eq hs, tensOf_append, unitsOf_append, placeDigits, timeDigits,
    BitVec.or_assoc, BitVec.ofNat_eq_ofNat, BitVec.or_zero]

variable (hl : l.wf = true)
include hl

omit hh hm hs in
theorem TrLayout.offsets_of_wf : (∀ o ∈ l.offsets, o + 4 ≤ 32) ∧ l.offsets.Pairwise Apart := by
  simp only [TrLayout.wf, Bool.and_eq_true, List.all_eq_true, decide_eq_true_eq] at hl
  exact hl

omit hh hm hs in
theorem timeDigits_field {j o : Nat} {d : BitVec 4} (hj : (timeDigits l h m s)[j]? = some (o, d)) :
    (placeDigits (timeDigits l h m s)).extractLsb' o 4 = d := by
  obtain ⟨hlt, hapart⟩ := TrLayout.offsets_of_wf hl
  have hmem := List.mem_of_getElem? hj
  exact placeDigits_field (ps := timeDigits l h m s) hapart hmem (hlt o (List.mem_map_of_mem (f := Prod.fst) hmem))

/-- `unpack_tr` of a packed time (R134). -/
theorem unpackTr_placeDigits : unpackTr l (placeDigits (timeDigits l h m s)) = { hour := h, min := m, sec := s } := by
  unfold unpackTr
  rw [timeDigits_field hl (j := 0) rfl, timeDigits_field hl (j := 1) rfl, timeDigits_field hl (j := 2) rfl,
    timeDigits_field hl (j := 3) rfl, timeDigits_field hl (j := 4) rfl, timeDigits_field hl (j := 5) rfl, bcdDec_digits hh,
    bcdDec_digits hm, bcdDec_digits hs]

end

/-- Settles O53: each field of a packed word holds its own digit, because no two of them overlap. -/
theorem unpackInvertsPack : Obligations.UnpackInvertsPack := by
  refine fun l hl => ⟨fun w => rfl, fun h m s hh hm hs => ?_, fun w x hwx => ?_⟩
  · have hdigit {j o v : Nat} (hv : v < 16) (hj : (timeDigits l h m s)[j]? = some (o, BitVec.ofNat 4 v)) :
        ((placeDigits (timeDigits l h m s)).extractLsb' o 4).toNat = v := by
      rw [timeDigits_field hl hj, BitVec.toNat_ofNat, Nat.mod_eq_of_lt hv]
    refine ⟨_, packTr_eq hh hm hs, hdigit (j := 0) (by omega) rfl, hdigit (j := 1) (by omega) rfl, hdigit (j := 2) (by omega) rfl,
      hdigit (j := 3) (by omega) rfl, hdigit (j := 4) (by omega) rfl, hdigit (j := 5) (by omega) rfl, fun k hk => ?_,
      unpackTr_placeDigits hh hm hs hl⟩
    exact placeDigits_bit_outside fun p hp => hk p.1 (List.mem_map_of_mem (f := Prod.fst) hp)
  · simp only [TrLayout.offsets, List.forall_mem_cons] at hwx
    obtain ⟨hht, hhu, hmnt, hmnu, hst, hsu, -⟩ := hwx
    simp only [unpackTr, hht, hhu, hmnt, hmnu, hst, hsu]

end Sys2Proof.Machine
end

section
/-! The RTC unit's micro-steps (41_rtc_sequencer R135 to R137), whole. -/

namespace Sys2Proof.Machine

theorem effect_setRtc (x : RtcState) : Effect (State.setRtc x) := ⟨fun _ _ _ _ _ _ => rfl, fun _ => rfl, fun _ => rfl⟩

/-- A read of TREC changes nothing but the count of free values (10_state R47). -/
theorem State.sampleSec_snd (s : State) : s.sampleSec.2 = { s with draws := s.sampleSec.2.draws } := by
  rw [State.sampleSec, State.readTrec_snd, State.sampleMin, State.readTrec_snd, State.sampleHour, State.readTrec_snd]

/-- S5 with three values that can be packed. -/
theorem writeTime_next {s : State} {w : Word}
    (hw : packTr s.cfg.trLayout s.sampleHour.1 s.sampleMin.1 s.sampleSec.1 = some w) :
    writeTime s = .next (s.sampleSec.2.wrR .rtc .tr (.word w)).advance := by
  simp only [writeTime, hw]

/-- S5 with three values that cannot be packed. -/
theorem writeTime_refused {s : State} (hw : packTr s.cfg.trLayout s.sampleHour.1 s.sampleMin.1 s.sampleSec.1 = none) :
    writeTime s = .refused .timeFieldOver99 := by
  simp only [writeTime, hw]

/-- Settles O31: at each index the micro-step is the event of the list, a poll being its last read. -/
theorem rtcinitMicroSteps : Obligations.RtcinitMicroSteps := by
  intro k e s hr he hflag
  have hk : k < 17 := (List.getElem?_eq_some_iff.1 he).1
  interval_cases k <;> cases he
  iterate 3 · exact exec_to hr leads_advance rfl rfl
  · exact exec_poll_to hr effect_id leads_advance rfl (hflag _ _ _ rfl)
  iterate 5 · exact exec_to hr leads_advance rfl rfl
  · exact exec_poll_to hr (effect_setRtc .initMode) leads_advance rfl (hflag _ _ _ rfl)
  iterate 4 · exact exec_to hr leads_advance rfl rfl
  · exact exec_poll_to hr (effect_setRtc .writeUnlocked) leads_advance rfl (hflag _ _ _ rfl)
  · exact exec_to hr leads_advance rfl rfl
  · exact exec_to hr leads_finish rfl rfl

/-- Settles O32: as RTCINIT's list, but S5 writes the sampled time, or has no meaning. -/
theorem rtcsetMicroSteps : Obligations.RtcsetMicroSteps := by
  refine fun k s hr => ⟨fun e hk5 he hflag => ?_, ?_, ?_⟩
  · have hk : k < 10 := (List.getElem?_eq_some_iff.1 he).1
    interval_cases k <;> cases he
    iterate 4 · exact exec_to hr leads_advance rfl rfl
    · exact exec_poll_to hr (effect_setRtc .initMode) leads_advance rfl (hflag _ _ _ rfl)
    · exact absurd rfl hk5
    iterate 2 · exact exec_to hr leads_advance rfl rfl
    · exact exec_poll_to hr (effect_setRtc .writeUnlocked) leads_advance rfl (hflag _ _ _ rfl)
    · exact exec_to hr leads_finish rfl rfl
  · rintro rfl w hw
    refine exec_to hr leads_advance (writeTime_next hw) ?_
    rw [State.sampleSec_snd]
    rfl
  · rintro rfl hgt
    rw [exec_running hr]
    exact writeTime_refused (packTr_eq_none hgt)

/-- Settles O33, one micro-step of R137 after the other; the registers are written in the micro-step that reads TR. -/
theorem rtcgetMicroSteps : Obligations.RtcgetMicroSteps := by
  refine fun s => ⟨fun hr hf => ?_, fun hr => ?_, fun hr => ?_⟩
  · exact exec_poll_to hr effect_id leads_advance rfl hf
  · exact exec_to (w := s.takeTime) hr leads_advance rfl rfl
  · exact exec_to hr leads_finish rfl rfl

end Sys2Proof.Machine
end

section
/-! What the micro-steps do not depend on: the name under which the command runs, and the TREC registers DOM, MON, YEAR, DOW and DST
(41_rtc_sequencer R150). Changing these before a micro-step or after it is the same. -/

namespace Sys2Proof.Machine

/-! ### A change that the micro-steps do not see -/

/-- The registers that RTCSET reads and RTCGET writes (41_rtc_sequencer R136, R137). -/
def TField.isTime : TField → Bool
  | .hour => true
  | .min => true
  | .sec => true
  | _ => false

/-- A change of the command's name, and of TREC that leaves HOUR, MIN and SEC. -/
structure Mask where
  /-- The command's name. -/
  cmd : Cmd → Cmd
  /-- The values. -/
  trec : TimeRec Byte → TimeRec Byte
  /-- Which registers have been written. -/
  known : TimeRec Bool → TimeRec Bool
  /-- HOUR, MIN and SEC read as before. -/
  get : ∀ f t t', f.isTime = true → trecGet (trec t) f = trecGet t f ∧ trecGet (known t') f = trecGet t' f
  /-- A write to one of them comes through. -/
  set : ∀ f t t' v v', f.isTime = true →
    trec (trecSet t f v) = trecSet (trec t) f v ∧ known (trecSet t' f v') = trecSet (known t') f v'

/-- The sequencer's position under another name. -/
def Seq.rename (r : Cmd → Cmd) : Seq → Seq
  | .idle => .idle
  | .run c k => .run (r c) k

/-- The changed state. -/
def Mask.on (m : Mask) (s : State) : State :=
  { s with seq := s.seq.rename m.cmd, trec := m.trec s.trec, trecKnown := m.known s.trecKnown }

/-- The answer with its next state changed. -/
def onNext (F : State → State) : Result → Result
  | .next t => .next (F t)
  | .fault f => .fault f
  | .refused r => .refused r

@[simp] theorem onNext_next (F : State → State) (t : State) : onNext F (.next t) = .next (F t) := rfl
@[simp] theorem onNext_fault (F : State → State) (f : Fault) : onNext F (.fault f) = .fault f := rfl
@[simp] theorem onNext_refused (F : State → State) (r : Refusal) : onNext F (.refused r) = .refused r := rfl

section
variable (m : Mask) (s : State)

@[simp] theorem Mask.on_cfg : (m.on s).cfg = s.cfg := rfl
@[simp] theorem Mask.on_rem : (m.on s).rem = s.rem := rfl
@[simp] theorem Mask.on_polls : (m.on s).polls = s.polls := rfl
@[simp] theorem Mask.on_flagBit (f : Flag) : (m.on s).flagBit f = s.flagBit f := rfl
@[simp] theorem Mask.on_drByte : (m.on s).drByte = s.drByte := rfl
@[simp] theorem Mask.on_wrF (d : Dev) (f : Field) (v : Val) : (m.on s).wrF d f v = m.on (s.wrF d f v) := rfl
@[simp] theorem Mask.on_wrR (d : Dev) (r : Reg) (v : Val) : (m.on s).wrR d r v = m.on (s.wrR d r v) := rfl
@[simp] theorem Mask.on_rdF (d : Dev) (f : Flag) : (m.on s).rdF d f = m.on (s.rdF d f) := rfl
@[simp] theorem Mask.on_rdWord (d : Dev) (r : Reg) : (m.on s).rdWord d r = m.on (s.rdWord d r) := rfl
@[simp] theorem Mask.on_rdDr (d : Dev) : (m.on s).rdDr d = m.on (s.rdDr d) := rfl
@[simp] theorem Mask.on_requestStop (b : BitVec 2) : (m.on s).requestStop b = m.on (s.requestStop b) := rfl
@[simp] theorem Mask.on_setHeld (b : BitVec 2) (x : Bool) : (m.on s).setHeld b x = m.on (s.setHeld b x) := rfl
@[simp] theorem Mask.on_setConfigured (b : BitVec 2) : (m.on s).setConfigured b = m.on (s.setConfigured b) := rfl
@[simp] theorem Mask.on_setRtc (x : RtcState) : (m.on s).setRtc x = m.on (s.setRtc x) := rfl
@[simp] theorem Mask.on_writeBuf (a : Nat) (v : Byte) : (m.on s).writeBuf a v = m.on (s.writeBuf a v) := rfl
@[simp] theorem Mask.on_clearPolls : (m.on s).clearPolls = m.on s.clearPolls := rfl
@[simp] theorem Mask.on_raise (k : ErrKind) : (m.on s).raise k = m.on (s.raise k) := rfl
@[simp] theorem Mask.on_finish : (m.on s).finish = m.on s.finish := rfl

@[simp] theorem Mask.on_advance : (m.on s).advance = m.on s.advance := by
  cases h : s.seq <;> simp [State.advance, Mask.on, Seq.rename, h]

@[simp] theorem Mask.on_goto (j : Nat) : (m.on s).goto j = m.on (s.goto j) := by
  cases h : s.seq <;> simp [State.goto, Mask.on, Seq.rename, h]

@[simp] theorem Mask.on_countPoll : (m.on s).countPoll = m.on s.countPoll := by
  cases h : s.cfg.pollLimit <;> simp [State.countPoll, Mask.on, h]

@[simp] theorem Mask.on_readBuf (a : Nat) : (m.on s).readBuf a = ((s.readBuf a).1, m.on (s.readBuf a).2) := by
  cases h : Memory.get? s.buf a <;> simp [State.readBuf, Mask.on, h]

/-! ### The operations and the lists -/

theorem Mask.poll {d : Dev} {f : Flag} {want : BitVec 1} {g : State → State} (hg : ∀ t, g (m.on t) = m.on (g t)) :
    poll d f want g (m.on s) = onNext m.on (poll d f want g s) := by
  unfold Machine.poll
  simp only [Mask.on_flagBit, Mask.on_rdF, Mask.on_countPoll, Mask.on_cfg, Mask.on_polls, Mask.on_clearPolls, Mask.on_raise, hg]
  split
  · rfl
  · split <;> rfl

theorem Mask.countDown {g : State → State} (hg : ∀ t, g (m.on t) = m.on (g t)) :
    countDown g (m.on s) = onNext m.on (countDown g s) := by
  unfold Machine.countDown
  rw [Mask.on_rem]
  split
  · rfl
  · exact congrArg Host.Outcome.next (hg { s with rem := s.rem - 1 })

theorem Mask.sendByte (b : BitVec 2) (off n : Byte) : sendByte b off n (m.on s) = onNext m.on (sendByte b off n s) := by
  cases h : bufIndex off n s.rem <;> simp [Machine.sendByte, h]

theorem Mask.takeByte (b : BitVec 2) (off n : Byte) : takeByte b off n (m.on s) = onNext m.on (takeByte b off n s) := by
  cases h : bufIndex off n s.rem <;> simp [Machine.takeByte, h]

theorem Mask.startPhase {b : BitVec 2} {g : State → State} (hg : ∀ t, g (m.on t) = m.on (g t)) (k : Nat) :
    startPhase b g k (m.on s) = onNext m.on (startPhase b g k s) := by
  unfold Machine.startPhase
  split
  case h_3 => exact m.poll s fun t => by simp [hg]
  all_goals simp

theorem Mask.addrPhase {b : BitVec 2} {sel : Byte} {g : State → State} (hg : ∀ t, g (m.on t) = m.on (g t)) (k : Nat) :
    addrPhase b sel g k (m.on s) = onNext m.on (addrPhase b sel g k s) := by
  unfold Machine.addrPhase
  split
  case h_2 => exact m.poll s m.on_advance
  all_goals simp [hg]

theorem Mask.dataPhase (b : BitVec 2) (off n : Byte) (base k : Nat) :
    dataPhase b off n base k (m.on s) = onNext m.on (dataPhase b off n base k s) := by
  unfold Machine.dataPhase
  split
  case h_1 => exact congrArg Host.Outcome.next (m.on_advance { s with rem := n })
  case h_2 => by_cases h : s.rem = 0#8 <;> simp [h]
  case h_3 => exact m.poll s m.on_advance
  case h_4 => exact m.sendByte s b off n
  case h_5 => exact m.countDown s fun t => m.on_goto t _
  case h_6 => exact m.poll s m.on_finish
  all_goals simp

theorem Mask.readOne (b : BitVec 2) (addr off : Byte) (k : Nat) :
    readOne b addr off k (m.on s) = onNext m.on (readOne b addr off k s) := by
  unfold Machine.readOne
  split
  case h_2 | h_8 => exact m.poll s m.on_advance
  case h_9 => rfl
  all_goals simp

theorem Mask.readMany (b : BitVec 2) (addr off n : Byte) (k : Nat) :
    readMany b addr off n k (m.on s) = onNext m.on (readMany b addr off n k s) := by
  unfold Machine.readMany
  split
  case h_1 | h_2 | h_3 | h_4 => exact m.addrPhase s m.on_advance _
  case h_5 => exact congrArg Host.Outcome.next (m.on_goto { s with rem := n } 5)
  case h_6 => by_cases h : s.rem.toNat ≤ 2 <;> simp [h]
  case h_7 | h_11 | h_16 => exact m.poll s m.on_advance
  case h_8 | h_12 | h_17 => exact m.takeByte s b off n
  case h_10 => exact m.countDown s fun t => m.on_goto t _
  case h_15 => exact m.countDown s m.on_advance
  case h_18 => exact m.countDown s m.on_finish
  all_goals simp

theorem Mask.configureStep (b : BitVec 2) (k : Nat) :
    configureStep b k (m.on s) = onNext m.on (configureStep b k s) := by
  unfold Machine.configureStep
  rw [Mask.on_cfg]
  split
  · split <;> simp
  · rfl

theorem Mask.writeStep (b : BitVec 2) (addr off n : Byte) (k : Nat) :
    writeStep b addr off n k (m.on s) = onNext m.on (writeStep b addr off n k s) := by
  unfold Machine.writeStep
  split
  · exact m.startPhase s m.on_advance k
  · split
    · exact m.addrPhase s m.on_advance _
    · exact m.dataPhase s b off n 7 _

theorem Mask.readStep (b : BitVec 2) (addr off n : Byte) (k : Nat) :
    readStep b addr off n k (m.on s) = onNext m.on (readStep b addr off n k s) := by
  unfold Machine.readStep
  split
  · exact m.readOne s b addr off k
  · exact m.readMany s b addr off n _

theorem Mask.rtcinitStep (k : Nat) : rtcinitStep k (m.on s) = onNext m.on (rtcinitStep k s) := by
  unfold Machine.rtcinitStep
  split
  case h_4 | h_10 | h_15 => exact m.poll s fun t => by simp
  all_goals simp

theorem Mask.readTrec {f : TField} (hf : f.isTime = true) : (m.on s).readTrec f = ((s.readTrec f).1, m.on (s.readTrec f).2) := by
  obtain ⟨hget, hknown⟩ := m.get f s.trec s.trecKnown hf
  cases h : trecGet s.trecKnown f <;> simp [State.readTrec, Mask.on, hget, hknown, h]

theorem Mask.writeTrec {f : TField} (hf : f.isTime = true) (v : Byte) : (m.on s).writeTrec f v = m.on (s.writeTrec f v) := by
  obtain ⟨hset, hknown⟩ := m.set f s.trec s.trecKnown v true hf
  simp [State.writeTrec, Mask.on, hset, hknown]

theorem Mask.sampleSec : (m.on s).sampleHour.1 = s.sampleHour.1 ∧ (m.on s).sampleMin.1 = s.sampleMin.1 ∧
    (m.on s).sampleSec = (s.sampleSec.1, m.on s.sampleSec.2) := by
  have hhour : (m.on s).sampleHour = (s.sampleHour.1, m.on s.sampleHour.2) := m.readTrec s rfl
  have hmin : (m.on s).sampleMin = (s.sampleMin.1, m.on s.sampleMin.2) := by
    rw [State.sampleMin, hhour]
    exact m.readTrec _ rfl
  refine ⟨by rw [hhour], by rw [hmin], ?_⟩
  rw [State.sampleSec, hmin]
  exact m.readTrec _ rfl

theorem Mask.writeTime : writeTime (m.on s) = onNext m.on (writeTime s) := by
  obtain ⟨hhour, hmin, hsec⟩ := m.sampleSec s
  have hpack : packTr (m.on s).cfg.trLayout (m.on s).sampleHour.1 (m.on s).sampleMin.1 (m.on s).sampleSec.1 =
      packTr s.cfg.trLayout s.sampleHour.1 s.sampleMin.1 s.sampleSec.1 := by
    rw [hhour, hmin, hsec]
    rfl
  cases hw : packTr s.cfg.trLayout s.sampleHour.1 s.sampleMin.1 s.sampleSec.1 with
  | none => rw [writeTime_refused hw, writeTime_refused (hpack.trans hw), onNext_refused]
  | some w =>
    rw [writeTime_next hw, writeTime_next (hpack.trans hw), onNext_next, hsec]
    exact congrArg Host.Outcome.next (m.on_advance (s.sampleSec.2.wrR .rtc .tr (.word w)))

theorem Mask.rtcsetStep (k : Nat) : rtcsetStep k (m.on s) = onNext m.on (rtcsetStep k s) := by
  unfold Machine.rtcsetStep
  split
  case h_5 | h_9 => exact m.poll s fun t => by simp
  case h_6 => exact m.writeTime s
  all_goals simp

theorem Mask.takeTime : (m.on s).takeTime = m.on s.takeTime := by
  simp only [State.takeTime, Mask.on_rdWord, m.writeTrec _ (f := .hour) rfl, m.writeTrec _ (f := .min) rfl,
    m.writeTrec _ (f := .sec) rfl]
  rfl

theorem Mask.rtcgetStep (k : Nat) : rtcgetStep k (m.on s) = onNext m.on (rtcgetStep k s) := by
  unfold Machine.rtcgetStep
  split
  case h_1 => exact m.poll s m.on_advance
  case h_2 => simp [m.takeTime]
  all_goals simp

/-- A micro-step sees none of the change. -/
theorem Mask.bodyOf (i : Instr) (k : Nat) : bodyOf i k (m.on s) = onNext m.on (bodyOf i k s) := by
  cases i with
  | configure b => exact m.configureStep s b k
  | start b => exact m.startPhase s m.on_finish k
  | sendaddr b sel => exact m.addrPhase s m.on_finish k
  | write b addr off n => exact m.writeStep s b addr off n k
  | wrdata b off n => exact m.dataPhase s b off n 0 k
  | read b addr off n => exact m.readStep s b addr off n k
  | stop b =>
    cases k with
    | zero => rfl
    | succ k => rfl
  | rtcinit => exact m.rtcinitStep s k
  | rtcset => exact m.rtcsetStep s k
  | rtcget => exact m.rtcgetStep s k

end

end Sys2Proof.Machine
end

section
/-! The protection windows of the RTC (41_rtc_sequencer R142, R143): an event moves the windows, and each command's list stays within
them. -/

namespace Sys2Proof.Machine

/-! ### The command stays the one that runs -/

/-- Every command takes this name. -/
def Mask.named (c : Cmd) : Mask where
  cmd := fun _ => c
  trec := id
  known := id
  get := fun _ _ _ _ => ⟨rfl, rfl⟩
  set := fun _ _ _ _ _ _ => ⟨rfl, rfl⟩

theorem Mask.named_on {c : Cmd} {s : State} : (Mask.named c).on s = s ↔ s.seq = .idle ∨ ∃ k, s.seq = .run c k := by
  have hon : (Mask.named c).on s = { s with seq := s.seq.rename fun _ => c } := rfl
  refine ⟨fun h => ?_, fun h => ?_⟩
  · have hseq : s.seq.rename (fun _ => c) = s.seq := congrArg State.seq (hon.symm.trans h)
    cases hs : s.seq with
    | idle => exact .inl rfl
    | run c' k => exact .inr ⟨k, by rw [← hs, ← hseq, hs]; rfl⟩
  · have hseq : s.seq.rename (fun _ => c) = s.seq := by
      rcases h with hs | ⟨k, hs⟩ <;> rw [hs] <;> rfl
    rw [hon, hseq]

/-- A micro-step ends its command or stays in it: it would be the same under that name. -/
theorem bodyOf_stays {i : Instr} {k : Nat} {s : State} (hs : s.seq = .run (cmdOf i) k) :
    NextHas (bodyOf i k s) fun t => t.seq = .idle ∨ ∃ j, t.seq = .run (cmdOf i) j := by
  intro t ht
  have hmask := (Mask.named (cmdOf i)).bodyOf s i k
  rw [Mask.named_on.2 (.inr ⟨k, hs⟩), ht, onNext_next] at hmask
  exact Mask.named_on.1 (Host.Outcome.next.inj hmask).symm

/-! ### The windows, event by event -/

/-- The name is none of those the windows depend on. -/
theorem RtcWindow.after_of_kind_ne {e : Event} (hne : e.name.kind ≠ .rtc) (w : RtcWindow) : w.after e = w := by
  cases e with
  | rdF d f v =>
    have hf : f ≠ .initf := by rintro rfl; exact hne rfl
    simp [RtcWindow.after, hf]
  | rdR d r v => rfl
  | wrF d f v =>
    have hf : f ≠ .init ∧ f ≠ .predivS ∧ f ≠ .predivA ∧ f ≠ .fmt := by
      refine ⟨?_, ?_, ?_, ?_⟩ <;> rintro rfl <;> exact hne rfl
    simp [RtcWindow.after, Event.isProtected, hf, beq_false_of_ne]
  | wrR d r v =>
    have hr : r ≠ .wpr ∧ r ≠ .tr ∧ r ≠ .date := by
      refine ⟨?_, ?_, ?_⟩ <;> rintro rfl <;> exact hne rfl
    simp [RtcWindow.after, Event.isProtected, hr, beq_false_of_ne]

/-- An event that leaves every window alone. -/
def Event.windowless (e : Event) : Prop := ∀ w : RtcWindow, w.after e = w

theorem rtcWindow_of_windowless {tr es : List Event} (h : ∀ e ∈ es, e.windowless) : rtcWindow (tr ++ es) = rtcWindow tr := by
  induction es generalizing tr with
  | nil => rw [List.append_nil]
  | cons e es ih =>
    rw [List.append_cons, ih fun x hx => h x (by simp [hx]), rtcWindow_append, h e (by simp)]

/-- An I2C command's events are on devices that have no window. -/
theorem Event.Of.windowless {i : Instr} {e : Event} {b : BitVec 2} (he : e.Of i) (hb : i.bus? = some b) : e.windowless := by
  refine RtcWindow.after_of_kind_ne ?_
  rw [← he.kind]
  rcases Dev.eq_of_bus?_some (he.bus.trans hb) with hd | hd <;> rw [hd] <;> nofun

/-- A poll's failed read leaves its command where it stands: INITF read 0 opens nothing, and I14, S8 and the other polls' positions
ask nothing that a flag read could change. -/
theorem windowAt_of_failedRead {i : Instr} {k : Nat} {d : Dev} {f : Flag} {want v : BitVec 1} {w : RtcWindow}
    (hp : pollAt i k = some (d, f, want)) (hv : v ≠ want) (h : windowAt (cmdOf i) k w = true) :
    windowAt (cmdOf i) k (w.after (.rdF d f v)) = true := by
  have hzero : want = 1 → v = 0 := by rintro rfl; revert v; decide
  cases i with
  | rtcinit =>
    simp only [pollAt] at hp
    split_ifs at hp with h3 h9 h14 <;> obtain ⟨rfl, rfl, rfl⟩ := hp <;> subst k
    · exact h
    · simpa [RtcWindow.after, hzero rfl] using h
    · simpa [RtcWindow.after, windowAt, cmdOf] using h
  | rtcset =>
    simp only [pollAt] at hp
    split_ifs at hp with h4 h8 <;> obtain ⟨rfl, rfl, rfl⟩ := hp <;> subst k
    · simpa [RtcWindow.after, hzero rfl] using h
    · simpa [RtcWindow.after, windowAt, cmdOf] using h
  | _ => rfl

theorem RtcWindow.ok_after_rdF (w : RtcWindow) (d : Dev) (f : Flag) (v : BitVec 1) : (w.after (.rdF d f v)).ok = w.ok := by
  simp only [RtcWindow.after]
  split <;> rfl

/-- RTCINIT's list (R135): KEY1, KEY2, INIT = 1, INITF = 1, then the protected writes, then INIT = 0 and the lock. -/
theorem rtcinitEvents_window {c : Config} {k : Nat} {e : Event} {w : RtcWindow} (he : (rtcinitEvents c)[k]? = some e)
    (hok : w.ok = true) (h : windowAt .rtcinit k w = true) :
    (w.after e).ok = true ∧ windowAt .rtcinit (k + 1) (w.after e) = true := by
  have hk : k < 17 := (List.getElem?_eq_some_iff.1 he).1
  interval_cases k <;> cases he <;> simp_all [windowAt, RtcWindow.after, Event.isProtected, Config.key1, Config.key2]

/-- RTCSET's list (R136), whatever time it writes. -/
theorem rtcsetEvents_window {c : Config} {x : Word} {k : Nat} {e : Event} {w : RtcWindow} (he : (rtcsetEvents c x)[k]? = some e)
    (hok : w.ok = true) (h : windowAt .rtcset k w = true) :
    (w.after e).ok = true ∧ windowAt .rtcset (k + 1) (w.after e) = true := by
  have hk : k < 10 := (List.getElem?_eq_some_iff.1 he).1
  interval_cases k <;> cases he <;> simp_all [windowAt, RtcWindow.after, Event.isProtected, Config.key1, Config.key2]

/-! ### The invariant -/

section
variable {i : Instr} {k : Nat} {s t : State}

/-- Of a command whose list makes no protected write nothing is asked but that the trace is as it should be. -/
theorem windowInv_of_unasked (hi : ∀ j w, windowAt (cmdOf i) j w = true) (hok : (rtcWindow t.tr).ok = true)
    (ht : t.seq = .idle ∨ ∃ j, t.seq = .run (cmdOf i) j) : WindowInv t := by
  refine ⟨hok, ?_⟩
  rcases ht with ht | ⟨j, ht⟩ <;> rw [ht]
  · trivial
  · exact hi j _

theorem WindowInv.at (h : WindowInv s) (hs : s.seq = .run (cmdOf i) k) : windowAt (cmdOf i) k (rtcWindow s.tr) = true := by
  have := h.2
  rwa [hs] at this

/-- A micro-step at which no poll fails need only be followed where the polls succeed. -/
theorem windowInv_of_polls (h : WindowInv s) (hr : s.running = some (i, k))
    (hdone : (∀ d f want, pollAt i k = some (d, f, want) → s.flagBit f = want) → NextHas (bodyOf i k s) WindowInv) :
    NextHas (bodyOf i k s) WindowInv := by
  by_cases hflag : ∀ d f want, pollAt i k = some (d, f, want) → s.flagBit f = want
  · exact hdone hflag
  · push Not at hflag
    obtain ⟨d, f, want, hp, hne⟩ := hflag
    obtain ⟨fin, hbody⟩ := pollAt_body hp
    have hs := (State.running_some hr).1
    have hok : (rtcWindow (s.rdF d f).countPoll.tr).ok = true := by
      rw [State.countPoll_tr, State.rdF_tr, rtcWindow_append, RtcWindow.ok_after_rdF]
      exact h.1
    rw [hbody]
    refine nextHas_poll (fun heq => absurd heq hne) (fun _ _ => ⟨hok, trivial⟩) fun _ _ => ⟨hok, ?_⟩
    rw [State.countPoll_seq, State.rdF_seq, hs, State.countPoll_tr, State.rdF_tr, rtcWindow_append]
    exact windowAt_of_failedRead hp hne (h.at hs)

/-- One event, after which the command stands at `k + 1` or has ended. -/
theorem windowInv_of_event {e : Event} {x : State} {q : Seq} (htr : x.tr = s.tr) (ht : StepTo x t [e] q)
    (hq : q = .idle ∨ q = .run (cmdOf i) (k + 1))
    (hw : (rtcWindow s.tr).ok = true → windowAt (cmdOf i) k (rtcWindow s.tr) = true →
      ((rtcWindow s.tr).after e).ok = true ∧ windowAt (cmdOf i) (k + 1) ((rtcWindow s.tr).after e) = true)
    (h : WindowInv s) (hs : s.seq = .run (cmdOf i) k) : WindowInv t := by
  obtain ⟨hok, hat⟩ := hw h.1 (h.at hs)
  have htr' : rtcWindow t.tr = (rtcWindow s.tr).after e := by rw [ht, ← rtcWindow_append, ← htr]
  have hseq : t.seq = q := by rw [ht]
  refine ⟨by rwa [htr'], ?_⟩
  rw [hseq]
  rcases hq with rfl | rfl
  · trivial
  · rw [htr']
    exact hat

theorem rtcinit_keeps_window (h : WindowInv s) (hr : s.running = some (.rtcinit, k)) :
    NextHas (bodyOf .rtcinit k s) WindowInv := by
  refine windowInv_of_polls h hr fun hflag => ?_
  cases he : (rtcinitEvents s.cfg)[k]? with
  | none =>
    have hk : 17 ≤ k := List.getElem?_eq_none_iff.1 he
    obtain ⟨j, rfl⟩ := Nat.exists_eq_add_of_le' hk
    exact nextHas_fault _ _
  | some e =>
    obtain ⟨t, ht, hto⟩ := rtcinitMicroSteps k e s hr he hflag
    rw [← exec_running hr, ht, nextHas_next]
    refine windowInv_of_event (i := .rtcinit) (k := k) rfl hto ?_ (fun hok hw => rtcinitEvents_window he hok hw) h
      (State.running_some hr).1
    split
    · exact .inl rfl
    · exact .inr rfl

theorem rtcset_keeps_window (h : WindowInv s) (hr : s.running = some (.rtcset, k)) :
    NextHas (bodyOf .rtcset k s) WindowInv := by
  refine windowInv_of_polls h hr fun hflag => ?_
  obtain ⟨hother, htime, -⟩ := rtcsetMicroSteps k s hr
  have hs := (State.running_some hr).1
  by_cases hk : k = 5
  · subst hk
    cases hw : packTr s.cfg.trLayout s.sampleHour.1 s.sampleMin.1 s.sampleSec.1 with
    | none =>
      rw [show bodyOf .rtcset 5 s = _ from writeTime_refused hw]
      exact nextHas_refused _ _
    | some w =>
      obtain ⟨t, ht, hto⟩ := htime rfl w hw
      rw [← exec_running hr, ht, nextHas_next]
      exact windowInv_of_event (i := .rtcset) (k := 5) rfl hto (.inr rfl)
        (fun hok hw' => rtcsetEvents_window (c := s.cfg) (x := w) rfl hok hw') h hs
  · cases he : (rtcsetEvents s.cfg 0)[k]? with
    | none =>
      have hk : 10 ≤ k := List.getElem?_eq_none_iff.1 he
      obtain ⟨j, rfl⟩ := Nat.exists_eq_add_of_le' hk
      exact nextHas_fault _ _
    | some e =>
      obtain ⟨t, ht, hto⟩ := hother e hk he hflag
      rw [← exec_running hr, ht, nextHas_next]
      refine windowInv_of_event (i := .rtcset) (k := k) rfl hto ?_ (fun hok hw => rtcsetEvents_window he hok hw) h hs
      split
      · exact .inl rfl
      · exact .inr rfl

/-- RTCGET only reads, and not INITF. -/
theorem rtcget_windowless (k : Nat) (s : State) : NextHas (rtcgetStep k s) fun t => rtcWindow t.tr = rtcWindow s.tr := by
  unfold rtcgetStep
  split
  · have hread : rtcWindow (s.rdF .rtc .rsf).tr = rtcWindow s.tr := by
      rw [State.rdF_tr, rtcWindow_append]
      simp [RtcWindow.after]
    refine nextHas_poll (fun _ => ?_) (fun _ _ => ?_) fun _ _ => ?_ <;> simpa using hread
  · simp [rtcWindow_append, RtcWindow.after]
  · simp [rtcWindow_append, RtcWindow.after]
  · exact nextHas_fault _ _

theorem bodyOf_keeps_window (h : WindowInv s) (hr : s.running = some (i, k)) : NextHas (bodyOf i k s) WindowInv := by
  have hs := (State.running_some hr).1
  have hi2c {b : BitVec 2} (hb : i.bus? = some b) : NextHas (bodyOf i k s) WindowInv := fun t ht => by
    obtain ⟨es, hof, htr, -⟩ := (bodyOf_micro i k s t ht).events
    refine windowInv_of_unasked (i := i) ?_ ?_ (bodyOf_stays hs t ht)
    · intro j w
      cases i with
      | rtcinit | rtcset => cases hb
      | _ => rfl
    · rw [htr, rtcWindow_of_windowless fun e he => (hof e he).windowless hb]
      exact h.1
  cases i with
  | rtcinit => exact rtcinit_keeps_window h hr
  | rtcset => exact rtcset_keeps_window h hr
  | rtcget =>
    intro t ht
    refine windowInv_of_unasked (i := .rtcget) (fun _ _ => rfl) ?_ (bodyOf_stays hs t ht)
    rw [rtcget_windowless k s t ht]
    exact h.1
  | _ => exact hi2c rfl

theorem windowAt_zero (c : Cmd) (w : RtcWindow) : windowAt c 0 w = true := by cases c <;> rfl

theorem exec_keeps_window (i : Instr) (h : WindowInv s) : NextHas (exec i s) WindowInv := by
  refine nextHas_exec (fun _ => ?_) fun k hs hi => bodyOf_keeps_window h ?_
  · exact nextHas_accept (fun _ => ⟨h.1, trivial⟩) (fun _ _ _ => ⟨h.1, trivial⟩)
      fun _ _ _ => ⟨h.1, windowAt_zero (cmdOf i) (rtcWindow s.tr)⟩
  · rw [State.running_of_run hs, hi]

/-- What leaves the trace alone and the block idle. -/
theorem WindowInv.idle (h : WindowInv s) (htr : t.tr = s.tr) (ht : t.seq = .idle) : WindowInv t := by
  refine ⟨by rw [htr]; exact h.1, ?_⟩
  rw [ht]
  trivial

end

/-- Settles O51: a command's micro-steps take it from one position of its list to the next, the windows with it; a poll's failed read
leaves both; every other step emits nothing. -/
theorem protectedWritesLieInTheWindows : Obligations.ProtectedWritesLieInTheWindows := by
  refine ⟨⟨rfl, trivial⟩, fun s t h => ?_⟩
  have hhost (host : List HostItem) : WindowInv { s with host := host } := h
  refine nextHas_step (fun _ _ => h) (fun i _ host _ => exec_keeps_window i (hhost host)) (fun it rest _ _ => ?_) t
  exact nextHas_hostTurn (fun _ => h) (fun i _ _ => exec_keeps_window i (hhost rest)) (fun _ => h.idle rfl rfl)
    (fun _ _ hs => h.idle rfl hs) (fun _ _ hs => h.idle (by simp) (by simpa using hs)) (fun _ _ hs => h.idle rfl hs)
    (fun _ _ hs => h.idle (by simp) (by simpa using hs)) h ⟨rfl, trivial⟩ (fun _ _ _ hs => h.idle rfl hs) (fun _ _ => h)

end Sys2Proof.Machine
end

section
/-! What the RTC commands leave alone (41_rtc_sequencer R130, R135 to R137), and the TREC registers that no command uses (R150). -/

namespace Sys2Proof.Machine

/-! ### The frame of the RTC commands -/

section
variable {α : Type} {p : State → α} {s : State} (hp : Blind (fun _ => True) p)
include hp

theorem rtcinitStep_keeps (hrtc : ∀ x, Keeps p (State.setRtc x)) (k : Nat) :
    NextHas (rtcinitStep k s) fun t => p t = p s := by
  unfold rtcinitStep
  split
  case h_4 => exact hp.poll trivial hp.advance
  case h_10 | h_15 => exact hp.poll trivial (hp.advance.comp (hrtc _))
  case h_7 => exact keeps_next hp.advance (hp.wrR trivial _ _ s)
  case h_8 | h_16 => exact keeps_next hp.advance ((hrtc _ _).trans (hp.wrR trivial _ _ s))
  case h_1 => exact keeps_next hp.advance ((hrtc _ _).trans (hp.wrF trivial _ _ s))
  case h_17 => exact keeps_next hp.finish ((hrtc _ _).trans (hp.wrF trivial _ _ s))
  case h_18 => exact nextHas_fault _ _
  all_goals exact keeps_next hp.advance (hp.wrF trivial _ _ s)

theorem writeTime_keeps : NextHas (writeTime s) fun t => p t = p s := by
  unfold writeTime
  split
  · refine keeps_next hp.advance ((hp.wrR trivial _ _ _).trans ?_)
    rw [State.sampleSec_snd]
    exact hp.control s s.seq s.lat s.polls s.err s.env _
  · exact nextHas_refused _ _

theorem rtcsetStep_keeps (hrtc : ∀ x, Keeps p (State.setRtc x)) (k : Nat) :
    NextHas (rtcsetStep k s) fun t => p t = p s := by
  unfold rtcsetStep
  split
  case h_5 | h_9 => exact hp.poll trivial (hp.advance.comp (hrtc _))
  case h_6 => exact writeTime_keeps hp
  case h_2 | h_7 => exact keeps_next hp.advance (hp.wrR trivial _ _ s)
  case h_3 => exact keeps_next hp.advance ((hrtc _ _).trans (hp.wrR trivial _ _ s))
  case h_10 => exact keeps_next hp.finish ((hrtc _ _).trans ((hrtc _ _).trans (hp.wrR trivial _ _ s)))
  case h_11 => exact nextHas_fault _ _
  all_goals exact keeps_next hp.advance (hp.wrF trivial _ _ s)

theorem rtcgetStep_keeps (htrec : ∀ f v, f.isTime = true → Keeps p (State.writeTrec f v)) (k : Nat) :
    NextHas (rtcgetStep k s) fun t => p t = p s := by
  unfold rtcgetStep
  split
  · exact hp.poll trivial hp.advance
  · refine keeps_next hp.advance ?_
    rw [State.takeTime, htrec .sec _ rfl, htrec .min _ rfl, htrec .hour _ rfl]
    exact hp.rdWord trivial _ s
  · exact keeps_next hp.finish (hp.rdWord trivial _ s)
  · exact nextHas_fault _ _

/-- A reading that sees nothing of what an RTC command may change is kept by its acceptance and by every micro-step. -/
theorem exec_keeps_of_rtc {i : Instr} (hb : i.bus? = none)
    (hrtc : i ≠ .rtcget → ∀ x s, p (State.setRtc x s) = p s := by intros; rfl)
    (htrec : i = .rtcget → ∀ f v s, f.isTime = true → p (State.writeTrec f v s) = p s := by intros; rfl) :
    NextHas (exec i s) fun t => p t = p s := by
  refine nextHas_exec (fun _ => hp.accept i _) fun k _ _ => ?_
  cases i with
  | rtcinit => exact rtcinitStep_keeps hp (hrtc nofun) k
  | rtcset => exact rtcsetStep_keeps hp (hrtc nofun) k
  | rtcget => exact rtcgetStep_keeps hp (fun f v hf t => htrec rfl f v t hf) k
  | _ => cases hb

end

theorem TField.isTime_eq_false {f : TField} (hhour : f ≠ .hour) (hmin : f ≠ .min) (hsec : f ≠ .sec) : f.isTime = false := by
  cases f with
  | hour => exact absurd rfl hhour
  | min => exact absurd rfl hmin
  | sec => exact absurd rfl hsec
  | _ => rfl

theorem TField.ne_of_isTime {f g : TField} (hf : f.isTime = true) (hg : g.isTime = false) : g ≠ f := by
  rintro rfl
  exact Bool.noConfusion (hf.symm.trans hg)

/-- One TREC register: what it holds, and whether it has been written. -/
def State.trecAt (f : TField) (s : State) : Byte × Bool := (trecGet s.trec f, trecGet s.trecKnown f)

theorem State.trecAt_writeTrec {f g : TField} (hne : g ≠ f) (v : Byte) (s : State) :
    (s.writeTrec f v).trecAt g = s.trecAt g := by
  simp [State.trecAt, State.writeTrec, trecGet_trecSet, hne]

/-- Settles O46: each field is a reading that sees nothing of what the command may change. -/
theorem rtcCommandsFrame : Obligations.RtcCommandsFrame := by
  intro i s t hb h
  have hfields := (exec_keeps_of_rtc (blind_fields fun s =>
    (s.buf, s.rem, s.configured, s.held, s.host, s.seen, s.cfg)) hb) t h
  simp only [Prod.mk.injEq] at hfields
  obtain ⟨hbuf, hrem, hconf, hheld, hhost, hseen, hcfg⟩ := hfields
  refine ⟨hbuf, hrem, hconf, hheld, fun hi => ?_, fun f hhour hmin hsec => ?_, fun hi => ?_, hhost, hseen, hcfg⟩
  · exact Prod.mk.inj ((exec_keeps_of_rtc (blind_fields fun s => (s.trec, s.trecKnown)) hb
      (htrec := fun hget => absurd hget hi)) t h)
  · have hf := TField.isTime_eq_false hhour hmin hsec
    exact Prod.mk.inj ((exec_keeps_of_rtc (blind_fields (State.trecAt f)) hb
      (htrec := fun _ _ v s hg => State.trecAt_writeTrec (TField.ne_of_isTime hg hf) v s)) t h)
  · exact (exec_keeps_of_rtc (blind_fields State.rtcState) hb (hrtc := fun hne => absurd hi hne)) t h

/-! ### The registers that no command uses -/

theorem trecSet_comm {α : Type} {f g : TField} (hne : g ≠ f) (t : TimeRec α) (x y : α) :
    trecSet (trecSet t g x) f y = trecSet (trecSet t f y) g x := by
  cases f <;> cases g <;> trivial

/-- One of the five registers holds something else. -/
def Mask.register (f : TField) (v : Byte) (known : Bool) (hf : f.isTime = false) : Mask where
  cmd := id
  trec := fun t => trecSet t f v
  known := fun t => trecSet t f known
  get := fun g t t' hg => by simp [trecGet_trecSet, (TField.ne_of_isTime hg hf).symm]
  set := fun g t t' x x' hg =>
    ⟨trecSet_comm (TField.ne_of_isTime hg hf).symm t x v, trecSet_comm (TField.ne_of_isTime hg hf).symm t' x' known⟩

section
variable {f : TField} {v : Byte} {known : Bool} (hf : f.isTime = false) (s : State)

theorem Mask.register_on : (Mask.register f v known hf).on s =
    { s with trec := trecSet s.trec f v, trecKnown := trecSet s.trecKnown f known } := by
  have hseq : s.seq.rename id = s.seq := by cases s.seq <;> rfl
  change ({ s with seq := s.seq.rename id, trec := trecSet s.trec f v, trecKnown := trecSet s.trecKnown f known } : State) = _
  rw [hseq]

/-- RTCSET's gate looks at HOUR, MIN and SEC. -/
theorem Mask.gateOf (m : Mask) (i : Instr) : gateOf i (m.on s) = Machine.gateOf i s := by
  have hover {g : TField} (hg : g.isTime = true) : trecOver99 g (m.on s) = trecOver99 g s := by
    obtain ⟨hget, hknown⟩ := m.get g s.trec s.trecKnown hg
    simp only [trecOver99, Mask.on, hget, hknown]
  cases i with
  | rtcset => simp only [Machine.gateOf, rtcsetGate, hover (g := .hour) rfl, hover (g := .min) rfl, hover (g := .sec) rfl]
  | _ => rfl

/-- Acceptance sees no change of the registers that no command uses. -/
theorem Mask.accept_register (i : Instr) : accept i (Machine.gateOf i) ((Mask.register f v known hf).on s) =
    onNext (Mask.register f v known hf).on (accept i (Machine.gateOf i) s) := by
  have hcheck : acceptCheck i ((Mask.register f v known hf).on s) = acceptCheck i s := rfl
  have hgate := Mask.gateOf s (Mask.register f v known hf) i
  rcases accept_cases i (Machine.gateOf i) s with ⟨hwf, ha⟩ | ⟨hwf, e, hc, ha⟩ | ⟨hwf, hc, r, hg, ha⟩ | ⟨hwf, hc, hg, ha⟩ <;>
    rw [ha] <;> simp only [accept, Mask.on_cfg, *] <;> rfl

theorem Mask.exec_register (i : Instr) : exec i ((Mask.register f v known hf).on s) =
    onNext (Mask.register f v known hf).on (exec i s) := by
  have hrun : ((Mask.register f v known hf).on s).running = s.running := by
    rw [Mask.register_on]
    rfl
  rcases exec_cases i s with ⟨hs, he⟩ | ⟨k, hr, he⟩ | ⟨j, k, hr, hne, he⟩ <;> rw [he]
  · rw [exec_idle (State.running_none.1 (hrun.trans (State.running_none.2 hs)))]
    exact Mask.accept_register hf s i
  · rw [exec_running (hrun.trans hr)]
    exact Mask.bodyOf _ s i k
  · exact exec_other (hrun.trans hr) hne

end

/-- Settles O50: neither acceptance nor a micro-step sees the change of such a register, and the command's frame leaves it; S6 writes
the placeholder. -/
theorem unusedTimeFieldsAreNeverReadNorWritten : Obligations.UnusedTimeFieldsAreNeverReadNorWritten := by
  refine ⟨fun i s t f v known hhour hmin hsec h => ⟨?_, ?_⟩, fun s hr => exec_to hr leads_advance rfl rfl⟩
  · cases hb : i.bus? with
    | none =>
      obtain ⟨-, -, -, -, -, hfield, -⟩ := rtcCommandsFrame i s t hb h
      exact hfield f hhour hmin hsec
    | some b =>
      obtain ⟨htrec, hknown, -⟩ := i2cCommandsFrame i b s t hb h
      rw [htrec, hknown]
      exact ⟨rfl, rfl⟩
  · have hexec := Mask.exec_register (v := v) (known := known) (TField.isTime_eq_false hhour hmin hsec) s i
    rwa [h, onNext_next, Mask.register_on, Mask.register_on] at hexec

end Sys2Proof.Machine
end

section
/-! Whole RTC commands, from acceptance to `done`, followed forward (41_rtc_sequencer R135 to R137, R147). -/

namespace Sys2Proof.Machine

/-! ### Writes with an effect, and the time -/

section
variable {i : Instr} {s x : State} {m k : Nat} {es : List Event} {env : Env} {q : Seq} {F g : State → State}
  (h : Reached i s m x es (.run (cmdOf i) k) env) (hg : Leads (cmdOf i) k g q) (hF : Effect F)
include h hg hF

/-- A field write with the effect `F` of the same micro-step. -/
theorem Reached.wrFThen {d : Dev} {f : Field} {v : Val} (hb : ∀ u, bodyOf i k u = .next (g (F (u.wrF d f v)))) :
    Reached i s (m + 1) (F x) (es ++ [.wrF d f v]) q (env.onWrF f v) :=
  h.micro hF hg fun u _ he =>
    ⟨_, hb u, StepTo.effect hF (rfl : StepTo u (u.wrF d f v) [.wrF d f v] u.seq), by rw [hF.env, State.wrF_env, he]⟩

/-- A register write with the effect `F` of the same micro-step. -/
theorem Reached.wrRThen {d : Dev} {r : Reg} {v : Val}
    (hb : ∀ u, StepTo x u es (.run (cmdOf i) k) → bodyOf i k u = .next (g (F (u.wrR d r v)))) :
    Reached i s (m + 1) (F x) (es ++ [.wrR d r v]) q (env.onWrR r v) :=
  h.micro hF hg fun u hu he =>
    ⟨_, hb u hu, StepTo.effect hF (rfl : StepTo u (u.wrR d r v) [.wrR d r v] u.seq), by rw [hF.env, State.wrR_env, he]⟩

end

/-- HOUR, MIN and SEC have been written, with values that can be packed (R131). -/
structure HasTime (s : State) : Prop where
  /-- HOUR has been written. -/
  hourKnown : s.trecKnown.hour = true
  /-- MIN has been written. -/
  minKnown : s.trecKnown.min = true
  /-- SEC has been written. -/
  secKnown : s.trecKnown.sec = true
  /-- HOUR. -/
  hour : s.trec.hour.toNat ≤ 99
  /-- MIN. -/
  min : s.trec.min.toNat ≤ 99
  /-- SEC. -/
  sec : s.trec.sec.toNat ≤ 99

/-- The packed time of a state. -/
def State.timeWord (s : State) : Word := placeDigits (timeDigits s.cfg.trLayout s.trec.hour s.trec.min s.trec.sec)

theorem HasTime.packTr {s : State} (h : HasTime s) :
    packTr s.cfg.trLayout s.trec.hour s.trec.min s.trec.sec = some s.timeWord := packTr_eq h.hour h.min h.sec

/-- S5 with a written time. -/
theorem HasTime.writeTime {s : State} (h : HasTime s) : writeTime s = .next (s.wrR .rtc .tr (.word s.timeWord)).advance := by
  have hhour : s.sampleHour = (s.trec.hour, s) := State.readTrec_known h.hourKnown
  have hmin : s.sampleMin = (s.trec.min, s) := by
    rw [State.sampleMin, hhour]
    exact State.readTrec_known h.minKnown
  have hsec : s.sampleSec = (s.trec.sec, s) := by
    rw [State.sampleSec, hmin]
    exact State.readTrec_known h.secKnown
  have hw : Machine.packTr s.cfg.trLayout s.sampleHour.1 s.sampleMin.1 s.sampleSec.1 = some s.timeWord := by
    rw [hhour, hmin, hsec]
    exact h.packTr
  rw [writeTime_next hw, hsec]

/-- S5 at a state that a stretch has led to. -/
theorem StepTo.writeTime {x u : State} {es : List Event} {q : Seq} (hu : StepTo x u es q) (h : HasTime x) :
    Machine.writeTime u = .next (u.wrR .rtc .tr (.word x.timeWord)).advance := by
  have htime : HasTime u := by
    rw [hu]
    exact ⟨h.hourKnown, h.minKnown, h.secKnown, h.hour, h.min, h.sec⟩
  have hword : u.timeWord = x.timeWord := by
    rw [hu]
    rfl
  rw [htime.writeTime, hword]

/-- The effect of Y1: HOUR, MIN and SEC hold a time. -/
def State.setTime (x : Hms) (s : State) : State := { s with trec := timeSet s.trec x, trecKnown := timeKnown s.trecKnown }

theorem effect_setTime (x : Hms) : Effect (State.setTime x) := ⟨fun _ _ _ _ _ _ => rfl, fun _ => rfl, fun _ => rfl⟩

theorem State.takeTime_eq (s : State) : s.takeTime = (s.rdWord .rtc .tr).setTime (unpackTr s.cfg.trLayout (s.regWord .tr)) := rfl

/-- Y1, where the environment answers `w` (R137). -/
theorem Reached.takeTime {s x : State} {m : Nat} {es : List Event} {env env' : Env} {w : Word}
    (h : Reached .rtcget s m x es (.run .rtcget 1) env)
    (hread : ∀ u : State, u.env = env → u.regWord .tr = w ∧ (u.rdWord .rtc .tr).env = env') :
    Reached .rtcget s (m + 1) (x.setTime (unpackTr x.cfg.trLayout w)) (es ++ [.rdR .rtc .tr (.word w)]) (.run .rtcget 2) env' :=
  h.micro (effect_setTime _) leads_advance fun u hu he => by
    obtain ⟨hval, hrest⟩ := hread u he
    have hcfg : u.cfg = x.cfg := by rw [hu]
    have hto : StepTo u (u.rdWord .rtc .tr) [.rdR .rtc .tr (.word w)] u.seq := by rw [← hval]; rfl
    refine ⟨u.takeTime, rfl, ?_, hrest⟩
    rw [State.takeTime_eq, hval, hcfg]
    exact hto.effect (effect_setTime _)

/-! ### Acceptance -/

theorem acceptable_rtcinit (s : State) : Acceptable .rtcinit s := ⟨rfl, rfl, fun _ _ => nofun, fun _ => nofun, nofun⟩

theorem acceptable_rtcget (s : State) : Acceptable .rtcget s := ⟨rfl, rfl, fun _ _ => nofun, fun _ => nofun, nofun⟩

theorem HasTime.acceptable {s : State} (h : HasTime s) : Acceptable .rtcset s := by
  have hover {f : TField} (hle : (trecGet s.trec f).toNat ≤ 99) : trecOver99 f s = false := by
    simp [trecOver99, Nat.not_lt.2 hle]
  exact ⟨rfl, rfl, fun _ _ => nofun, fun _ => nofun, fun _ => ⟨hover h.hour, hover h.min, hover h.sec⟩⟩

/-! ### The commands -/

/-- Settles O42: acceptance, then I0 to I16. -/
theorem rtcinitRunsToCompletion : Obligations.RtcinitRunsToCompletion := by
  intro s rdy i1 i0 rest hs hrdy hi1 hi0 henv
  simp only [List.append_assoc] at henv
  have h0 := (acceptable_rtcinit s).reached hs
  rw [henv] at h0
  have h1 := h0.wrFThen leads_advance (effect_setRtc .clockEnabling) fun _ => rfl
  have h2 := h1.wrF leads_advance fun _ _ => rfl
  have h3 := h2.wrF leads_advance fun _ _ => rfl
  have h4 := h3.wait leads_advance (fun _ => rfl) hrdy rfl
  have h5 := h4.wrF leads_advance fun _ _ => rfl
  have h6 := h5.wrF leads_advance fun _ _ => rfl
  have h7 := h6.wrR leads_advance fun _ _ => rfl
  have h8 := h7.wrRThen leads_advance (effect_setRtc .writeUnlocked) fun _ _ => rfl
  have h9 := h8.wrF leads_advance fun _ _ => rfl
  have h10 := h9.waitThen leads_advance (effect_setRtc .initMode) (fun _ => rfl) hi1 rfl
  have h11 := h10.wrF (v := .num s.cfg.predivSVal) leads_advance fun u hu => by rw [hu]; rfl
  have h12 := h11.wrF (v := .num s.cfg.predivAVal) leads_advance fun u hu => by rw [hu]; rfl
  have h13 := h12.wrF leads_advance fun _ _ => rfl
  have h14 := h13.wrF leads_advance fun _ _ => rfl
  have h15 := h14.waitThen leads_advance (effect_setRtc .writeUnlocked) (fun _ => rfl) hi0 rfl
  have h16 := h15.wrRThen (v := .byte s.cfg.lockSentinel) leads_advance (effect_setRtc .writeLocked) fun u hu => by rw [hu]; rfl
  have hend := h16.wrFThen leads_finish (effect_setRtc .running) fun _ => rfl
  exact (hend.cast (by omega) (by simp [rtcinitTrace, Config.key1, Config.key2])).completes

theorem Wait.events_name {d : Dev} {f : Flag} {want : BitVec 1} {w : Wait} {e : Event} (he : e ∈ w.events d f want) :
    e.name = .flag d f := by
  rcases List.mem_append.1 he with he | he
  · rw [List.eq_of_mem_replicate he]
    rfl
  · rw [List.mem_singleton.1 he]
    rfl

/-- Of RTCSET's events the first alone writes BKP_WR_EN (R145). -/
theorem get?_record_rtcsetTrace (ri : List (Nat × Val)) (c : Config) (w : Word) (i1 i0 : Wait) :
    Memory.get? (record ri (rtcsetTrace c w (i1.events .rtc .initf 1) (i0.events .rtc .initf 0)))
      (RiName.field .pwr .bkpWrEn).code = some (.bit 1) := by
  have hsplit : rtcsetTrace c w (i1.events .rtc .initf 1) (i0.events .rtc .initf 0) =
      .wrF .pwr .bkpWrEn (.bit 1) :: (rtcsetTrace c w (i1.events .rtc .initf 1) (i0.events .rtc .initf 0)).tail := by
    simp [rtcsetTrace]
  rw [hsplit, record_cons, get?_record_of_not_named]
  · exact Memory.get?_set_same _ _ _
  · intro e he
    simp only [rtcsetTrace, List.append_assoc, List.cons_append, List.nil_append, List.tail_cons, List.mem_cons, List.mem_append,
      List.not_mem_nil, or_false] at he
    rcases he with rfl | rfl | rfl | he | rfl | rfl | rfl | he | rfl
    case inr.inr.inr.inl | inr.inr.inr.inr.inr.inr.inr.inl => rw [Wait.events_name he]; nofun
    all_goals simp [Event.name]

/-- Settles O43: acceptance, then S0 to S9. -/
theorem rtcsetRunsToCompletion : Obligations.RtcsetRunsToCompletion := by
  intro s i1 i0 rest hs hi1 hi0 henv hkh hkm hks hh hm hsec
  have htime : HasTime s := ⟨hkh, hkm, hks, hh, hm, hsec⟩
  rw [List.append_assoc] at henv
  have h0 := htime.acceptable.reached hs
  rw [henv] at h0
  have h1 := h0.wrF leads_advance fun _ _ => rfl
  have h2 := h1.wrR leads_advance fun _ _ => rfl
  have h3 := h2.wrRThen leads_advance (effect_setRtc .writeUnlocked) fun _ _ => rfl
  have h4 := h3.wrF leads_advance fun _ _ => rfl
  have h5 := h4.waitThen leads_advance (effect_setRtc .initMode) (fun _ => rfl) hi1 rfl
  have h6 := h5.wrR leads_advance fun u hu => hu.writeTime ⟨hkh, hkm, hks, hh, hm, hsec⟩
  have h7 := h6.wrR (v := .word s.cfg.datePlaceholder) leads_advance fun u hu => by rw [hu]; rfl
  have h8 := h7.wrF leads_advance fun _ _ => rfl
  have h9 := h8.waitThen leads_advance (effect_setRtc .writeUnlocked) (fun _ => rfl) hi0 rfl
  have hend := h9.wrRThen (v := .byte s.cfg.lockSentinel) leads_finish ((effect_setRtc .running).comp (effect_setRtc .writeLocked))
    fun u hu => by rw [hu]; rfl
  obtain ⟨u, t, hrun, hlast, ht, hto⟩ := (hend.cast (m' := 10 + i1.fails.length + i0.fails.length + 1)
    (es' := rtcsetTrace s.cfg s.timeWord (i1.events .rtc .initf 1) (i0.events .rtc .initf 0)) (by omega)
    (by simp [rtcsetTrace, Config.key1, Config.key2]; rfl)).completes
  refine ⟨s.timeWord, htime.packTr, u, t, hrun, hlast, ht, hto, ?_⟩
  rw [hto]
  exact get?_record_rtcsetTrace _ _ _ _ _

/-- Settles O44: acceptance, then Y0 to Y2. -/
theorem rtcgetRunsToCompletion : Obligations.RtcgetRunsToCompletion := by
  intro s rsf w x rest hs hrsf henv
  simp only [List.append_assoc] at henv
  have h0 := (acceptable_rtcget s).reached hs
  rw [henv] at h0
  have h1 := h0.wait leads_advance (fun _ => rfl) hrsf rfl
  have h2 := h1.takeTime fun _ => State.rdWord_oracle
  have hend := h2.rdWord leads_finish (fun _ => rfl) rfl
  exact (hend.cast (by omega) (by simp)).completes

theorem runExec_snoc {i : Instr} {m n : Nat} {s u t : State} (h : runExec i m s = .next u) (ht : exec i u = .next t)
    (hn : n = m + 1) : runExec i n s = .next t := by
  rw [hn, runExec_add h, runExec_next ht, runExec_zero]

/-- Settles O55: the two commands one after the other; every digit of the word 0 is 0. -/
theorem postResetReadIsZero : Obligations.PostResetReadIsZero := by
  intro s rdy i1 i0 rsf x rest hs hrdy hi1 hi0 hrsf henv
  obtain ⟨u, t, hrun, hlast, ht, hto⟩ := rtcinitRunsToCompletion s rdy i1 i0 (rsf.answers ++ [0, x] ++ rest) hs hrdy hi1 hi0
    (by simpa using henv)
  have htseq : t.seq = .idle := by rw [hto]
  have htlimit : t.cfg.pollLimit = s.cfg.pollLimit := by rw [hto]; rfl
  have htrtc : t.rtcState = .running := by rw [hto]
  obtain ⟨u', t', hrun', hlast', -, hto'⟩ := rtcgetRunsToCompletion t rsf 0 x rest htseq (htlimit ▸ hrsf) ht
  have hzero : unpackTr t.cfg.trLayout 0 = { hour := 0, min := 0, sec := 0 } := by simp [unpackTr, bcdDec]
  rw [hzero] at hto'
  refine ⟨t, t', runExec_snoc hrun hlast (by omega), htseq, runExec_snoc hrun' hlast' (by omega), ?_⟩
  rw [hto']
  exact ⟨rfl, rfl, rfl, rfl, htrtc⟩

end Sys2Proof.Machine
end

section
/-! RTCSET and RTCGET under the reference environment ENV0 (41_rtc_sequencer R146, 20_memory R62). -/

namespace Sys2Proof.Machine

/-! ### Polls under ENV0 -/

/-- How many reads of the flag, at most, are not yet answered as wanted (R62 items 1, 2). -/
def Env0.readsLeft (e : Env0) (f : Flag) : Nat := if f = .initf then e.k - e.initReads else e.k - e.pollReads

/-- A flag read leaves the registers and INIT; it has the value a poll waits for, or brings it nearer. -/
theorem env0Flag_spec (e : Env0) (f : Flag) : ∃ e', (env0Flag e f).env = .env0 e' ∧ e'.tr = e.tr ∧ e'.init = e.init ∧
    ((env0Flag e f).val.setWidth 1 = wantedOf e.init f ∨ e'.readsLeft f < e.readsLeft f) := by
  unfold env0Flag
  split
  · rename_i hf
    refine ⟨_, rfl, rfl, rfl, ?_⟩
    by_cases hk : e.initReads < e.k
    · right
      simp only [Env0.readsLeft, if_pos hf]
      omega
    · left
      simp [hk, wantedOf, hf]
  · rename_i hf
    split
    · refine ⟨_, rfl, rfl, rfl, .inr ?_⟩
      simp only [Env0.readsLeft, if_neg hf]
      omega
    · refine ⟨_, rfl, rfl, rfl, .inl ?_⟩
      simp [wantedOf, hf]

theorem leads_stay {c : Cmd} {k : Nat} : Leads c k id (.run c k) := fun w h => by rw [← h]; rfl

section
variable {i : Instr} {s x : State} {k : Nat} {q : Seq} {F g : State → State}

/-- One execution of `poll` under ENV0 without a limit ends, whatever the delay, and leaves the word last written to TR. -/
theorem Reached.waitEnv0 {m : Nat} {es : List Event} {e : Env0} {d : Dev} {f : Flag} {want : BitVec 1}
    (h : Reached i s m x es (.run (cmdOf i) k) (.env0 e)) (hg : Leads (cmdOf i) k g q) (hF : Effect F)
    (hb : ∀ u, bodyOf i k u = poll d f want (fun t => g (F t)) u) (hlimit : x.cfg.pollLimit = none)
    (hwant : wantedOf e.init f = want) :
    ∃ m' es' e', Reached i s m' (F x) es' q (.env0 e') ∧ e'.tr = e.tr := by
  induction hn : e.readsLeft f using Nat.strong_induction_on generalizing m es e with
  | _ n ih =>
    obtain ⟨e', henv, htr, hinit, hnearer⟩ := env0Flag_spec e f
    have hread {u : State} (he : u.env = .env0 e) :
        u.flagBit f = (env0Flag e f).val.setWidth 1 ∧ (u.rdF d f).env = .env0 e' := by
      rw [State.flagBit, State.rdF_env, State.askFlag, he]
      exact ⟨rfl, henv⟩
    by_cases hval : (env0Flag e f).val.setWidth 1 = want
    · refine ⟨_, _, e', h.micro (fs := [.rdF d f want]) hF hg fun u hu he => ?_, htr⟩
      obtain ⟨hbit, hrest⟩ := hread he
      have hpolls : u.polls = 0 := by
        rw [hu]
        obtain ⟨-, -, -, -, -, hx⟩ := h
        exact hx
      have hw : StepTo u (u.rdF d f).clearPolls [.rdF d f want] u.seq := by
        rw [← hval, ← hbit]
        simp [StepTo, State.clearPolls, State.rdF, State.answered, State.emit, hpolls]
      refine ⟨_, ?_, hw.effect hF, by rw [hF.env]; exact hrest⟩
      rw [hb, poll_satisfied (hbit.trans hval), State.clearPolls_countPoll]
    · have hless : e'.readsLeft f < n := hn ▸ hnearer.resolve_left fun hw => hval (hw.trans hwant)
      have hstay := h.micro (fs := [.rdF d f ((env0Flag e f).val.setWidth 1)]) (env' := .env0 e') effect_id leads_stay
        fun u hu he => by
          obtain ⟨hbit, hrest⟩ := hread he
          have hulimit : u.cfg.pollLimit = none := by
            rw [hu]
            exact hlimit
          refine ⟨u.rdF d f, ?_, by rw [← hbit]; rfl, hrest⟩
          rw [hb, poll_fails_of_noLimit hulimit (by rwa [hbit])]
          rfl
      obtain ⟨m', es', e'', hend, hlast⟩ := ih _ hless hstay (by rw [hinit, hwant]) rfl
      exact ⟨m', es', e'', hend, hlast.trans htr⟩

end

/-! ### The two commands -/

/-- TR reads as the word last written there (R62 item 5). -/
theorem State.rdTr_env0 {u : State} {e : Env0} (he : u.env = .env0 e) :
    u.regWord .tr = e.tr ∧ (u.rdWord .rtc .tr).env = .env0 e := by
  rw [State.regWord, State.rdWord_env, State.askReg_env0 he]
  exact ⟨rfl, rfl⟩

/-- DATE reads as the word last written there (R62 item 6). -/
theorem State.rdDate_env0 {u : State} {e : Env0} (he : u.env = .env0 e) :
    u.regWord .date = e.date ∧ (u.rdWord .rtc .date).env = .env0 e := by
  rw [State.regWord, State.rdWord_env, State.askReg_env0 he]
  exact ⟨rfl, rfl⟩

section
variable {s : State} {e : Env0} (hs : s.seq = .idle) (henv : s.env = .env0 e) (hlimit : s.cfg.pollLimit = none)
include hs henv hlimit

/-- RTCSET ends, and TR was last written with the packed time. -/
theorem rtcset_env0 (htime : HasTime s) :
    ∃ m t e', runExec .rtcset m s = .next t ∧ t.seq = .idle ∧ t.cfg = s.cfg ∧ t.env = .env0 e' ∧ e'.tr = s.timeWord := by
  have h0 := htime.acceptable.reached hs
  rw [henv] at h0
  have h1 := h0.wrF leads_advance fun _ _ => rfl
  have h2 := h1.wrR leads_advance fun _ _ => rfl
  have h3 := h2.wrRThen leads_advance (effect_setRtc .writeUnlocked) fun _ _ => rfl
  have h4 := h3.wrF leads_advance fun _ _ => rfl
  obtain ⟨m5, es5, e5, h5, -⟩ := h4.waitEnv0 (e := { e with pollReads := 0, prevInit := e.init, init := 1, initReads := 0 })
    leads_advance (effect_setRtc .initMode) (fun _ => rfl) hlimit rfl
  have h6 := h5.wrR leads_advance fun u hu =>
    hu.writeTime ⟨htime.hourKnown, htime.minKnown, htime.secKnown, htime.hour, htime.min, htime.sec⟩
  have h7 := h6.wrR (v := .word s.cfg.datePlaceholder) leads_advance fun u hu => by rw [hu]; rfl
  have h8 := h7.wrF leads_advance fun _ _ => rfl
  obtain ⟨m9, es9, e9, h9, htr⟩ := h8.waitEnv0
    (e := { e5 with tr := s.timeWord, date := s.cfg.datePlaceholder, prevInit := e5.init, init := 0, initReads := 0 })
    leads_advance (effect_setRtc .writeUnlocked) (fun _ => rfl) hlimit rfl
  obtain ⟨t, hrun, hto, ht, -⟩ := h9.wrRThen (v := .byte s.cfg.lockSentinel) leads_finish
    ((effect_setRtc .running).comp (effect_setRtc .writeLocked)) fun u hu => by rw [hu]; rfl
  exact ⟨_, t, e9, hrun, by rw [hto], by rw [hto]; rfl, ht, htr⟩

/-- RTCGET ends with the time of the word last written to TR. -/
theorem rtcget_env0 : ∃ m t, runExec .rtcget m s = .next t ∧ t.seq = .idle ∧
    t.trec = timeSet s.trec (unpackTr s.cfg.trLayout e.tr) := by
  have h0 := (acceptable_rtcget s).reached hs
  rw [henv] at h0
  obtain ⟨m1, es1, e1, h1, htr⟩ := h0.waitEnv0 leads_advance effect_id (fun _ => rfl) hlimit rfl
  have h2 := h1.takeTime fun _ => State.rdTr_env0
  obtain ⟨t, hrun, hto, -⟩ := h2.micro (fs := [.rdR .rtc .date (.word e1.date)]) (env' := .env0 e1) effect_id leads_finish
    fun u _ he => by
      obtain ⟨hval, hrest⟩ := State.rdDate_env0 he
      exact ⟨_, rfl, by rw [← hval]; rfl, hrest⟩
  refine ⟨_, t, hrun, by rw [hto], ?_⟩
  rw [hto, ← htr]
  rfl

end

/-- Settles O54: RTCSET leaves the packed time in TR, RTCGET unpacks it, and the layout's fields do not overlap. -/
theorem timeRoundTripUnderEnv0 : Obligations.TimeRoundTripUnderEnv0 := by
  intro s e trec hinv hs henv hlimit hkh hkm hks hh hm hsec
  obtain ⟨m, t, e', hrun, ht, hcfg, htenv, htr⟩ := rtcset_env0 hs henv hlimit ⟨hkh, hkm, hks, hh, hm, hsec⟩
  obtain ⟨m', u, hrun', hu, htrec⟩ := rtcget_env0 (s := { t with trec := trec }) ht htenv (hcfg ▸ hlimit)
  refine ⟨m, t, m', u, hrun, ht, hrun', hu, ?_⟩
  have hlayout : s.cfg.trLayout.wf = true := by
    have hwf := hinv.cfgOk
    simp only [Config.wf, Bool.and_eq_true] at hwf
    exact hwf.2
  have hunpack : unpackTr s.cfg.trLayout e'.tr = { hour := s.trec.hour, min := s.trec.min, sec := s.trec.sec } := by
    rw [htr]
    exact unpackTr_placeDigits hh hm hsec hlayout
  rw [htrec, hcfg, hunpack]
  rfl

end Sys2Proof.Machine
end

section
/-! The EEPROM client's pseudo-instructions (42_eeprom_client R160 to R166): the host actions they become, and where they stop. -/

namespace Sys2Proof.Machine

theorem eepromInRange_iff {page : BitVec 16} {n : Byte} :
    eepromInRange page n = true ↔ page.toNat < 4096 ∧ page.toNat + n.toNat ≤ 4096 := by
  rw [eepromInRange, Bool.and_eq_true, decide_eq_true_iff, decide_eq_true_iff]
  rfl

/-- EEWRITE becomes its expansion. -/
theorem step_eeWrite {s : State} {b : BitVec 2} {dev : Byte} {page : BitVec 16} {n : Byte} {timing : HostTiming}
    {rest : List HostItem} (hs : s.seq = .idle)
    (hh : s.host = { act := .eeWrite b dev page n, timing := timing, cont := false } :: rest) :
    step s = expand (eepromInRange page n) (eeWriteExpansion b dev page n) { s with host := rest } := by
  rw [step_idle_act hs hh, hostAct, whenIdle_of_idle (by exact hs)]

/-- EEREAD becomes the expansion that EE_ADDR_BEFORE_READ says. -/
theorem step_eeRead {s : State} {b : BitVec 2} {dev : Byte} {page : BitVec 16} {n : Byte} {timing : HostTiming}
    {rest : List HostItem} (hs : s.seq = .idle)
    (hh : s.host = { act := .eeRead b dev page n, timing := timing, cont := false } :: rest) :
    step s = expand (eepromInRange page n) (eeReadExpansion s.cfg.eeAddrBeforeRead b dev page n) { s with host := rest } := by
  rw [step_idle_act hs hh, hostAct, whenIdle_of_idle (by exact hs)]

/-- Settles O57: in range the expansion is put before the host's other actions, out of range it is refused. -/
theorem eepromExpansions : Obligations.EepromExpansions := by
  intro s b dev page n rest hs
  refine ⟨fun hh hpage hend => ?_, fun hh hpage hend => ?_, fun hh hout => ?_⟩
  · rw [step_eeWrite hs hh, eepromInRange_iff.2 ⟨hpage, hend⟩]
    rfl
  · rw [step_eeRead hs hh, eepromInRange_iff.2 ⟨hpage, hend⟩]
    rfl
  · have hrange : eepromInRange page n = false := by
      rw [Bool.eq_false_iff, Ne, eepromInRange_iff]
      omega
    rcases hh with hh | hh
    · rw [step_eeWrite hs hh, hrange]
      rfl
    · rw [step_eeRead hs hh, hrange]
      rfl

theorem expansionEnds_iff {it : HostItem} {s : State} :
    expansionEnds it s = true ↔ it.cont = true ∧ s.seq = .idle ∧ s.err ≠ 0 := by
  rw [expansionEnds, Bool.and_eq_true, Bool.and_eq_true, bne_iff_ne, and_assoc]
  simp [State.busy]

/-- An expansion that has ended loses the actions that continue it (R166). -/
theorem hostTurn_ends {it : HostItem} {s : State} (hit : it.cont = true) (hs : s.seq = .idle) (herr : s.err ≠ 0) :
    hostTurn it s = .next { s with host := s.host.dropWhile (fun x => x.cont) } := by
  rw [hostTurn, if_pos (expansionEnds_iff.2 ⟨hit, hs, herr⟩)]

/-- An action is taken unless it continues an expansion that has ended. -/
theorem hostTurn_goes_on {it : HostItem} {s : State} (h : it.cont = true → s.err = 0) : hostTurn it s = hostAct it.act s := by
  refine if_neg fun hends => ?_
  obtain ⟨hit, -, herr⟩ := expansionEnds_iff.1 hends
  exact herr (h hit)

/-- Settles O58: the continuations at the head of the list are dropped, up to the first action that is none. -/
theorem expansionStopsAtAnError : Obligations.ExpansionStopsAtAnError := by
  intro s it more rest hs herr hit hmore hrest hh
  rw [List.cons_append] at hh
  have hstop : rest.dropWhile (fun x => x.cont) = rest := by
    cases rest with
    | nil => rfl
    | cons x r => simp [hrest x r rfl]
  rw [step_host hh (.inl hs), hostTurn_ends hit (by exact hs) (by exact herr), List.dropWhile_append_of_pos hmore, hstop]

end Sys2Proof.Machine
end

section
/-! A command in a list of host actions: while it runs, a step of the machine is a call of `exec` (00_scope R6). That the block is
idle nowhere between acceptance and `done` is seen on a machine without a bus, where no I2C command could begin again. -/

namespace Sys2Proof.Machine

/-! ### The machine without a bus -/

/-- The state on a machine with no bus. N_BUS is read at acceptance alone (30_encoding R75), so a command that runs there goes on as
it would. -/
def State.busless (s : State) : State := { s with cfg := { s.cfg with nBus := 0 } }

/-- The micro-steps of `i` do not depend on N_BUS. -/
def NeedsNoBus (i : Instr) : Prop := ∀ k s, bodyOf i k s.busless = onNext State.busless (bodyOf i k s)

section
variable (s : State)

@[simp] theorem State.busless_rem : s.busless.rem = s.rem := rfl
@[simp] theorem State.busless_polls : s.busless.polls = s.polls := rfl
@[simp] theorem State.busless_pollLimit : s.busless.cfg.pollLimit = s.cfg.pollLimit := rfl
@[simp] theorem State.busless_flagBit (f : Flag) : s.busless.flagBit f = s.flagBit f := rfl
@[simp] theorem State.busless_wrF (d : Dev) (f : Field) (v : Val) : s.busless.wrF d f v = (s.wrF d f v).busless := rfl
@[simp] theorem State.busless_wrR (d : Dev) (r : Reg) (v : Val) : s.busless.wrR d r v = (s.wrR d r v).busless := rfl
@[simp] theorem State.busless_rdF (d : Dev) (f : Flag) : s.busless.rdF d f = (s.rdF d f).busless := rfl
@[simp] theorem State.busless_rdWord (d : Dev) (r : Reg) : s.busless.rdWord d r = (s.rdWord d r).busless := rfl
@[simp] theorem State.busless_setHeld (b : BitVec 2) (x : Bool) : s.busless.setHeld b x = (s.setHeld b x).busless := rfl
@[simp] theorem State.busless_clearPolls : s.busless.clearPolls = s.clearPolls.busless := rfl
@[simp] theorem State.busless_finish : s.busless.finish = s.finish.busless := rfl

@[simp] theorem State.busless_advance : s.busless.advance = s.advance.busless := by
  cases h : s.seq <;> simp [State.advance, State.busless, h]

@[simp] theorem State.busless_goto (j : Nat) : s.busless.goto j = (s.goto j).busless := by
  cases h : s.seq <;> simp [State.goto, State.busless, h]

@[simp] theorem State.busless_countPoll : s.busless.countPoll = s.countPoll.busless := by
  cases h : s.cfg.pollLimit <;> simp [State.countPoll, State.busless, h]

@[simp] theorem State.busless_readBuf (a : Nat) : s.busless.readBuf a = ((s.readBuf a).1, (s.readBuf a).2.busless) := by
  cases h : Memory.get? s.buf a <;> simp [State.readBuf, State.busless, h]

theorem busless_poll {d : Dev} {f : Flag} {want : BitVec 1} {g : State → State} (hg : ∀ t, g t.busless = (g t).busless) :
    poll d f want g s.busless = onNext State.busless (poll d f want g s) := by
  unfold poll
  simp only [State.busless_flagBit, State.busless_rdF, State.busless_countPoll, State.busless_clearPolls,
    State.busless_pollLimit, State.busless_polls, hg]
  split
  · rfl
  · split <;> rfl

theorem needsNoBus_start (b : BitVec 2) : NeedsNoBus (.start b) := by
  intro k s
  change startPhase b State.finish k s.busless = onNext State.busless (startPhase b State.finish k s)
  unfold startPhase
  split
  case h_3 => exact busless_poll s fun _ => rfl
  all_goals simp

theorem needsNoBus_sendaddr (b : BitVec 2) (sel : Byte) : NeedsNoBus (.sendaddr b sel) := by
  intro k s
  change addrPhase b sel State.finish k s.busless = onNext State.busless (addrPhase b sel State.finish k s)
  unfold addrPhase
  split
  case h_2 => exact busless_poll s State.busless_advance
  all_goals simp

theorem needsNoBus_wrdata (b : BitVec 2) (off n : Byte) : NeedsNoBus (.wrdata b off n) := by
  intro k s
  change dataPhase b off n 0 k s.busless = onNext State.busless (dataPhase b off n 0 k s)
  unfold dataPhase
  split
  case h_1 => exact congrArg Host.Outcome.next (State.busless_advance { s with rem := n })
  case h_2 => by_cases h : s.rem = 0#8 <;> simp [h]
  case h_3 => exact busless_poll s State.busless_advance
  case h_4 => cases h : bufIndex off n s.rem <;> simp [sendByte, h]
  case h_5 =>
    by_cases h : s.rem = 0#8
    · simp [countDown, h]
    · rw [countDown_next h, countDown_next (s := s.busless) h]
      exact congrArg Host.Outcome.next (State.busless_goto { s with rem := s.rem - 1 } _)
  case h_6 => exact busless_poll s State.busless_finish
  all_goals simp

theorem needsNoBus_stop (b : BitVec 2) : NeedsNoBus (.stop b) := by
  intro k s
  cases k with
  | zero => rfl
  | succ k => rfl

end

/-! ### From acceptance to `done` -/

section
variable {i : Instr} {b : BitVec 2}

/-- Without a bus an I2C command presented is illegal. -/
theorem exec_no_bus (hb : i.bus? = some b) {s : State} (hs : s.seq = .idle) (hn : s.cfg.nBus = 0) :
    exec i s = .next (s.raise .illegalCommand) := by
  simp [exec_idle hs, accept, Instr.wf, hb, hn]

/-- So it is each time it is presented again. -/
theorem runExec_no_bus (hb : i.bus? = some b) (m : Nat) {s : State} (hs : s.seq = .idle) (hn : s.cfg.nBus = 0) :
    runExec i (m + 1) s = .next (s.raise .illegalCommand) := by
  induction m generalizing s with
  | zero => exact runExec_next (exec_no_bus hb hs hn)
  | succ m ih =>
    rw [runExec_next (exec_no_bus hb hs hn)]
    exact ih rfl hn

/-- While a command runs and the host waits for its end, a step is a call of `exec`. -/
theorem step_exec {k : Nat} {s : State} (hr : s.running = some (i, k)) (hwait : ∀ it ∈ s.host, it.timing = .whenIdle) :
    step s = exec i s :=
  stepRunsTheDecodedCommand.2.1 s i k hr fun it rest hh => hwait it (by rw [hh]; exact List.mem_cons_self)

/-- Calls of `exec` that would end without an error code on a machine without a bus are steps of the machine: none of them is an
acceptance, which there would leave the code of an illegal command, so before each of them the command runs. -/
theorem runStep_of_busless (hb : i.bus? = some b) (hi : NeedsNoBus i) (m : Nat) : ∀ {s t' : State},
    (∀ it ∈ s.host, it.timing = .whenIdle) → runExec i m s.busless = .next t' → t'.err = 0 →
    ∃ t, runStep m s = .next t ∧ t.busless = t' ∧ t.cfg = s.cfg := by
  induction m with
  | zero =>
    intro s t' _ hrun _
    exact ⟨s, rfl, Host.Outcome.next.inj hrun, rfl⟩
  | succ m ih =>
    intro s t' hwait hrun herr
    rcases exec_cases i s with ⟨hs, -⟩ | ⟨k, hr, hexec⟩ | ⟨j, k, hr, hne, -⟩
    · cases (runExec_no_bus hb m (s := s.busless) hs rfl).symm.trans hrun
      cases herr
    · have hbusless : exec i s.busless = onNext State.busless (bodyOf i k s) := (exec_running (s := s.busless) hr).trans (hi k s)
      cases hbody : bodyOf i k s with
      | next v =>
        rw [hbody] at hbusless hexec
        obtain ⟨-, -, -, -, -, -, -, hhost, -, hcfg⟩ := i2cCommandsFrame i b s v hb hexec
        rw [runExec_next hbusless] at hrun
        obtain ⟨t, ht, hbt, hct⟩ := ih (by rwa [hhost]) hrun herr
        exact ⟨t, (runStep_next ((step_exec hr hwait).trans hexec)).trans ht, hbt, hct.trans hcfg⟩
      | fault f => simp [runExec, hbusless, hbody] at hrun
      | refused r => simp [runExec, hbusless, hbody] at hrun
    · simp [runExec, exec_other (s := s.busless) hr hne] at hrun

end

end Sys2Proof.Machine
end

section
/-! EEWRITE from the host's action to its last STOP, and what it puts on the bus (42_eeprom_client R161, R162; 00_scope R12). -/

namespace Sys2Proof.Machine

/-! ### A list of host actions, command by command -/

/-- From `s` the machine comes to an idle state with this code, this BUF and this trace, these answers and this list of the host's
actions still to come, all of which wait, and as `s` in whatever else the commands of an expansion depend on. -/
def Comes (s : State) (err : BitVec 3) (buf : List Host.Cell) (tr : List Event) (answers : List Word) (host : List HostItem) :
    Prop :=
  (∀ it ∈ host, it.timing = .whenIdle) ∧ ∃ m lat rem polls held ri draws, runStep m s = .next { s with
    seq := .idle, err := err, buf := buf, tr := tr, env := .oracle answers, host := host,
    lat := lat, rem := rem, polls := polls, held := held, ri := ri, draws := draws }

/-- What the command `i` on bus `b` does with these cells of BUF over these answers: it emits the events `es` and leaves the
answers `rest`. -/
structure Performs (b : BitVec 2) (i : Instr) (limit : Option Nat) (buf : List Host.Cell) (es : List Event)
    (answers rest : List Word) : Prop where
  /-- It is a command on the bus, other than CONFIGURE. -/
  bus : needsConfigured i = some b
  /-- It has a meaning. -/
  count : countIsZero i = false
  /-- Only its acceptance reads N_BUS. -/
  noBus : NeedsNoBus i
  /-- From its first micro-step to its end it may change `rem` and `held` besides. -/
  run : ∀ s x, x.cfg.pollLimit = limit → x.buf = buf → Reached i s 0 x [] (.run (cmdOf i) 0) (.oracle answers) →
    ∃ m rem held, Reached i s m { x with rem := rem, held := held } es .idle (.oracle rest)

/-- Whole stretches do not depend on N_BUS. -/
theorem stepTo_busless {x t : State} {es : List Event} {q : Seq} (hcfg : t.cfg = x.cfg) :
    StepTo x.busless t.busless es q ↔ StepTo x t es q := by
  rw [stepTo_iff, stepTo_iff]
  constructor
  · rintro ⟨env, draws, h⟩
    have ht : t = { t.busless with cfg := t.cfg } := rfl
    rw [h, hcfg] at ht
    exact ⟨env, draws, ht⟩
  · rintro ⟨env, draws, rfl⟩
    exact ⟨env, draws, rfl⟩

/-- A command that the host presents on a ready bus, from the CMD write to its `done` (30_encoding R82). -/
theorem command_performs {s : State} {i : Instr} {b : BitVec 2} {it : HostItem} {host : List HostItem} {es : List Event}
    {answers rest : List Word} (hready : Ready b s) (hhost : s.host = it :: host) (hact : it.act = .cmd (encode i))
    (hcont : it.cont = true → s.err = 0) (hwait : ∀ it ∈ host, it.timing = .whenIdle) (henv : s.env = .oracle answers)
    (hperf : Performs b i s.cfg.pollLimit s.buf es answers rest) :
    ∃ m t rem held, runStep m s = .next t ∧ t.env = .oracle rest ∧
      StepTo { ({ s with host := host } : State).accepted i with rem := rem, held := held } t es .idle := by
  have hs : s.seq = .idle := hready.1
  have hready' : Ready b { s with host := host } := hready
  obtain ⟨hb, hn, hi, hdoes⟩ := hperf
  have hbus : i.bus? = some b := by cases i <;> cases hb <;> rfl
  obtain ⟨u, hu, hto, hue, -⟩ := hready'.reached henv hb hn
  have hstep : step s = .next u := by
    rw [step_host hhost (.inl hs), hostTurn_goes_on (by exact hcont), hact, hostAct, whenIdle_of_idle (by exact hs), writeCmd,
      decode_encode (hready'.acceptable hb hn).1]
    exact runExec_one hu
  have hucfg : u.cfg = s.cfg := by rw [hto]; rfl
  have huhost : u.host = host := by rw [hto]; rfl
  obtain ⟨m, rem, held, w, hrun, hw, hwe, -⟩ := hdoes u.busless (({ s with host := host } : State).accepted i).busless rfl rfl
    ⟨u.busless, rfl, (stepTo_busless (by exact hucfg)).2 hto, hue, rfl, rfl⟩
  obtain ⟨t, ht, rfl, htcfg⟩ := runStep_of_busless hbus hi m (huhost ▸ hwait) hrun (by rw [hw]; rfl)
  exact ⟨m + 1, t, rem, held, (runStep_next hstep).trans ht, hwe, (stepTo_busless (by exact htcfg.trans hucfg)).1 hw⟩

section
variable {s : State} {err : BitVec 3} {buf : List Host.Cell} {tr : List Event} {answers : List Word} {host : List HostItem}

/-- EEWRITE becomes its expansion (42_eeprom_client R162). -/
theorem comes_eeWrite {b : BitVec 2} {dev : Byte} {page : BitVec 16} {n : Byte} (hs : s.seq = .idle)
    (henv : s.env = .oracle answers) (hhost : s.host = [hostWaits (.eeWrite b dev page n)])
    (hpage : page.toNat < 4096) (hend : page.toNat + n.toNat ≤ 4096) :
    Comes s s.err s.buf s.tr answers (eeWriteExpansion b dev page n) := by
  refine ⟨by simp [eeWriteExpansion, eepromAddress, hostWaits, hostContinues], ?_⟩
  refine ⟨1, s.lat, s.rem, s.polls, s.held, s.ri, s.draws, runStep_next (n := 0) ?_⟩
  rw [step_eeWrite hs hhost, eepromInRange_iff.2 ⟨hpage, hend⟩, ← hs, ← henv]
  rfl

/-- A write to BUF (10_state R27). -/
theorem Comes.bufWrite {j : BitVec 9} {v : Byte} (h : Comes s err buf tr answers (hostWaits (.bufWrite j v) :: host)) :
    Comes s err (Memory.set buf j.toNat v) tr answers host := by
  obtain ⟨hwait, m, lat, rem, polls, held, ri, draws, hrun⟩ := h
  refine ⟨(List.forall_mem_cons.1 hwait).2, m + 1, lat, rem, polls, held, ri, draws, (runStep_add hrun).trans ?_⟩
  refine runStep_next (n := 0) ?_
  rw [step_idle_act rfl rfl, hostAct, whenIdle_of_idle rfl]
  rfl

/-- A command of an expansion (R166). -/
theorem Comes.command {i : Instr} {b : BitVec 2} {it : HostItem} {es : List Event} {rest : List Word}
    (h : Comes s err buf tr answers (it :: host)) (hready : Ready b s) (hact : it.act = .cmd (encode i))
    (hcont : it.cont = true → err = 0) (hperf : Performs b i s.cfg.pollLimit buf es answers rest) :
    Comes s 0 buf (tr ++ es) rest host := by
  obtain ⟨hwait, m, lat, rem, polls, held, ri, draws, hrun⟩ := h
  replace hwait := (List.forall_mem_cons.1 hwait).2
  obtain ⟨m', t, rem', held', hrun', hte, ht⟩ := command_performs (s := { s with
    seq := .idle, err := err, buf := buf, tr := tr, env := .oracle answers, host := it :: host,
    lat := lat, rem := rem, polls := polls, held := held, ri := ri, draws := draws })
    ⟨rfl, hready.2⟩ rfl hact hcont hwait rfl hperf
  obtain ⟨env, draws', rfl⟩ := stepTo_iff.1 ht
  cases hte
  exact ⟨hwait, m + m', _, _, _, _, _, _, (runStep_add hrun).trans hrun'⟩

end

/-! ### The commands of EEWRITE -/

section
variable {b : BitVec 2} {limit : Option Nat} {buf : List Host.Cell} {rest : List Word}

/-- START (40_i2c_master R102). -/
theorem performs_start {sb : Wait} (hsb : sb.ok 1 limit) :
    Performs b (.start b) limit buf ([.wrF (.i2c b) .ack (.bit 1), .wrF (.i2c b) .start (.bit 1)] ++ sb.events (.i2c b) .sb 1)
      (sb.answers ++ rest) rest := by
  refine ⟨rfl, rfl, needsNoBus_start b, ?_⟩
  rintro s x rfl - h
  exact ⟨_, _, _, (h.start (fun _ _ _ => rfl) leads_finish hsb).cast rfl (by simp)⟩

/-- SENDADDR (R103). -/
theorem performs_sendaddr {sel : Byte} {ad : Wait} {x1 x2 : Word} (had : ad.ok 1 limit) :
    Performs b (.sendaddr b sel) limit buf (addrEvents b sel ad x1 x2) (ad.answers ++ x1 :: x2 :: rest) rest := by
  refine ⟨rfl, rfl, needsNoBus_sendaddr b sel, ?_⟩
  rintro s x rfl - h
  exact ⟨_, _, _, h.address (base := 0) (fun _ _ => rfl) (fun _ _ _ => by rw [Nat.zero_add]; rfl) leads_finish had⟩

/-- WRDATA of bytes that stand in BUF (R107). -/
theorem performs_wrdata {off n : Byte} {sent : List (Wait × Byte)} {btf : Wait} (hn : n ≠ 0)
    (hlen : sent.length = n.toNat)
    (hcells : ∀ (j : Nat) (p : Wait × Byte), sent[j]? = some p → Memory.get? buf (off.toNat + j) = some p.2)
    (hok : ∀ p ∈ sent, p.1.ok 1 limit) (hbtf : btf.ok 1 limit) :
    Performs b (.wrdata b off n) limit buf (dataEvents b sent btf) (sent.flatMap (fun p => p.1.answers) ++ (btf.answers ++ rest))
      rest := by
  refine ⟨rfl, by simpa [countIsZero] using hn, needsNoBus_wrdata b off n, ?_⟩
  rintro s x rfl rfl h
  obtain ⟨m, hend⟩ := h.data (base := 0) (fun _ _ => by rw [Nat.zero_add]; rfl) hlen hcells hok hbtf
  exact ⟨_, _, _, hend⟩

/-- WRDATA of the page address, high byte first, once it stands in BUF (42_eeprom_client R161). -/
theorem performs_pageAddress {hi lo btf : Wait} {vhi vlo : Byte} (hhi : hi.ok 1 limit) (hlo : lo.ok 1 limit)
    (hbtf : btf.ok 1 limit) :
    Performs b (.wrdata b 0 2) limit (Memory.set (Memory.set buf 0 vhi) 1 vlo) (dataEvents b [(hi, vhi), (lo, vlo)] btf)
      (hi.answers ++ (lo.answers ++ (btf.answers ++ rest))) rest := by
  have hperf := performs_wrdata (b := b) (buf := Memory.set (Memory.set buf 0 vhi) 1 vlo) (off := 0) (n := 2) (rest := rest)
    (sent := [(hi, vhi), (lo, vlo)]) (by decide) rfl ?_
    (List.forall_mem_cons.2 ⟨hhi, List.forall_mem_singleton.2 hlo⟩) hbtf
  · simpa using hperf
  · rintro (_ | _ | j) p ⟨⟩
    · simp [Memory.get?_set]
    · simp [Memory.get?_set]

/-- STOP (R104). -/
theorem performs_stop : Performs b (.stop b) limit buf [.wrF (.i2c b) .stop (.bit 1)] rest rest := by
  refine ⟨rfl, rfl, needsNoBus_stop b, ?_⟩
  rintro s x - - h
  exact ⟨_, _, _, h.stop leads_finish fun _ => rfl⟩

end

/-! ### What they put on the bus -/

section
variable (b : BitVec 2) (held : Bool)

@[simp] theorem txFrom_wait (d : Dev) (f : Flag) (want : BitVec 1) (w : Wait) : txFrom b held (w.events d f want) = [] := by
  obtain ⟨fails, last⟩ := w
  simp only [Wait.events]
  induction fails generalizing held with
  | nil => rfl
  | cons a fails ih => exact ih _

@[simp] theorem txFrom_addrEvents (sel : Byte) (ad : Wait) (x1 x2 : Word) :
    txFrom b held (addrEvents b sel ad x1 x2) = [.byte sel] := by
  simp [addrEvents, txFrom_append, txFrom, txItem]

@[simp] theorem txFrom_dataEvents (sent : List (Wait × Byte)) (btf : Wait) :
    txFrom b held (dataEvents b sent btf) = sent.map (fun p => .byte p.2) := by
  induction sent generalizing held with
  | nil => exact txFrom_wait b held _ _ _ btf
  | cons p sent ih => simp [dataEvents_cons, txFrom_append, txFrom, txItem, ih]

end

/-- Settles O59: the expansion, the two address bytes into BUF, and then the five commands, one after the other. -/
theorem eewriteTransmitsInOrder : Obligations.EewriteTransmitsInOrder := by
  intro s b dev page n sb ad hi lo btf btf' x1 x2 payload rest hready hhost hn hend hlen hcells hok henv
  have hpage : page.toNat < 4096 := by bv_omega
  simp only [List.append_assoc] at henv
  simp only [List.cons_append, List.nil_append, List.forall_mem_cons, List.forall_mem_map] at hok
  obtain ⟨hsb, had, hhi, hlo, hbtf, hbtf', hpayload⟩ := hok
  have hcells' : ∀ (j : Nat) (p : Wait × Byte), payload[j]? = some p →
      Memory.get? (Memory.set (Memory.set s.buf 0 (page.extractLsb' 8 8)) 1 (page.extractLsb' 0 8)) (2 + j) = some p.2 :=
    fun j p hp => by
      rw [Memory.get?_set_other _ _ _ _ (by omega), Memory.get?_set_other _ _ _ _ (by omega)]
      exact hcells j p hp
  have hfilled := (comes_eeWrite hready.1 henv hhost hpage hend).bufWrite.bufWrite
  have hstarted := hfilled.command hready rfl nofun (performs_start hsb)
  have hselected := hstarted.command hready rfl (fun _ => rfl) (performs_sendaddr had)
  have haddressed := hselected.command hready rfl (fun _ => rfl) (performs_pageAddress hhi hlo hbtf)
  have hsent := haddressed.command hready rfl (fun _ => rfl) (performs_wrdata hn hlen hcells' hpayload hbtf')
  obtain ⟨-, m, lat, rem, polls, held, ri, draws, hrun⟩ := hsent.command hready rfl (fun _ => rfl) performs_stop
  simp only [List.append_assoc] at hrun
  refine ⟨m, _, _, hrun, rfl, rfl, rfl, rfl, rfl, ?_⟩
  simp [txFrom_append, txFrom, txItem, heldAfter]

end Sys2Proof.Machine
end

section
/-! The statements of the exceptions family (60_exceptions): a poll at its limit, the checks at acceptance, and the host's ports
while a command runs. -/

namespace Sys2Proof.Machine

/-! ### A poll with a limit (R184, R185) -/

/-- With a finite POLL_LIMIT a failed read is counted, and the read that makes the count the limit raises BusTimeout. -/
theorem poll_fails_of_limit {d : Dev} {f : Flag} {want : BitVec 1} {fin : State → State} {s : State} {l : Nat}
    (hlimit : s.cfg.pollLimit = some l) (hne : s.flagBit f ≠ want) :
    poll d f want fin s = .next (if s.polls + 1 = l then State.raise .busTimeout { s.rdF d f with polls := s.polls + 1 }
      else { s.rdF d f with polls := s.polls + 1 }) := by
  have hcount : (s.rdF d f).countPoll = { s.rdF d f with polls := s.polls + 1 } := by simp [State.countPoll, hlimit]
  rcases poll_cases d f want fin s with ⟨heq, -⟩ | ⟨-, hlast, hpoll⟩ | ⟨-, hmore, hpoll⟩
  · exact absurd heq hne
  · rw [hpoll, hcount, if_pos (Option.some.inj (hlimit.symm.trans hlast)).symm]
  · rw [hpoll, hcount, if_neg fun h => hmore (hlimit.trans (congrArg some h.symm))]

/-- Settles O16: wherever `pollAt` names a poll, the micro-step is one read of it, the last allowed or an earlier one. -/
theorem pollTimesOutAtTheLimit : Obligations.PollTimesOutAtTheLimit := by
  intro i k d f want s l hlimit hpoll hrun hne
  obtain ⟨fin, hbody⟩ := pollAt_body hpoll
  have hexec := (exec_running hrun).trans ((hbody s).trans (poll_fails_of_limit hlimit hne))
  refine ⟨fun hlast => ?_, fun hmore => ?_⟩
  · rw [if_pos hlast] at hexec
    exact ⟨_, hexec, rfl⟩
  · rw [if_neg hmore] at hexec
    exact ⟨_, hexec, rfl⟩

/-! ### The checks at acceptance (R183, R184, R186) -/

/-- A command that a check stops leaves its operands latched and the code of the check in STATUS.ERR, and nothing else. -/
theorem exec_idle_raises {i : Instr} {s : State} {e : ErrKind} (hs : s.seq = .idle) (hwf : i.wf s.cfg.nBus = true)
    (hcheck : acceptCheck i s = some e) : exec i s = .next { s with err := e.code, lat := latOf i } := by
  simp [exec_idle hs, accept, hwf, hcheck, State.raise, State.latch, hs]

/-- Settles O19: the count is tested first, the bus after it. -/
theorem checkedAcceptanceErrors : Obligations.CheckedAcceptanceErrors := by
  intro i s hs hwf hc
  refine ⟨fun hz => ?_, fun b hz hb hconf => ?_⟩
  · have hcheck : acceptCheck i s = some .protocolViolation := by simp [acceptCheck, hc, hz]
    exact exec_idle_raises hs hwf hcheck
  · have hcheck : acceptCheck i s = some .notInitialized := by simp [acceptCheck, hc, hz, hb, hconf]
    exact exec_idle_raises hs hwf hcheck

/-! ### The host's ports while a command runs (R190, R194) -/

/-- An action whose moment has come is taken, also while a command runs. -/
theorem step_due_act {s : State} {a : HostAction} {rest : List HostItem}
    (hh : s.host = { act := a, timing := .after 0, cont := false } :: rest) : step s = hostAct a { s with host := rest } := by
  rw [step_host hh (.inr rfl), hostTurn_act rfl]

theorem whenIdle_of_busy {s : State} (hs : s.seq ≠ .idle) (r : Result) : whenIdle s r = .refused .hostWhileBusy :=
  if_pos (State.busy_iff.2 hs)

/-- `s` after `n` reads of a flag that were not answered `want`, with the answers `more` still to come. -/
def State.afterFailedReads (d : Dev) (f : Flag) (want : BitVec 1) (n : Nat) (more : List Word) (s : State) : State :=
  { s with
    tr := s.tr ++ List.replicate n (.rdF d f (~~~want)), ri := record s.ri (List.replicate n (.rdF d f (~~~want)))
    env := .oracle more }

section
variable {i : Instr} {k : Nat} {d : Dev} {f : Flag} {want : BitVec 1} {x : Word} {answers more : List Word} {a : HostAction}
  {cont : Bool} {rest : List HostItem} {s : State}

/-- A micro-step of a command that hangs at a poll is one read, not of the wanted value. -/
theorem exec_hangs (h : HangsAt i k d f want (x :: answers) s) (henv : s.env = .oracle (x :: more)) :
    exec i s = .next (s.afterFailedReads d f want 1 more) := by
  obtain ⟨hrun, hpoll, hlimit, hfails⟩ := h
  obtain ⟨fin, hbody⟩ := pollAt_body hpoll
  obtain ⟨hbit, hread⟩ := State.rdF_oracle (d := d) (f := f) henv
  have hx := hfails x List.mem_cons_self
  rw [exec_running hrun, hbody, poll_fails_of_noLimit hlimit (hbit ▸ hx), hread, not_eq_of_ne hx]
  rfl

/-- While the host waits, a step of a command that hangs is that read. -/
theorem step_hangs {n : Nat} (h : HangsAt i k d f want (x :: answers) s) (henv : s.env = .oracle (x :: more))
    (hh : s.host = { act := a, timing := .after (n + 1), cont := cont } :: rest) :
    step s = .next (State.afterFailedReads d f want 1 more
      { s with host := { act := a, timing := .after n, cont := cont } :: rest }) := by
  rw [step_waits hh h.1 (by simp), HostItem.waited_after]
  exact exec_hangs (s := { s with host := _ }) h henv

theorem HangsAt.afterFailedReads (h : HangsAt i k d f want (x :: answers) s) (n : Nat) (more : List Word) (host : List HostItem) :
    HangsAt i k d f want answers (State.afterFailedReads d f want n more { s with host := host }) := by
  obtain ⟨hrun, hpoll, hlimit, hfails⟩ := h
  exact ⟨hrun, hpoll, hlimit, (List.forall_mem_cons.1 hfails).2⟩

/-- A command that hangs at a poll comes, over the answers that leave it there, to the moment of the host's action. -/
theorem runStep_hangs (h : HangsAt i k d f want answers s) (henv : s.env = .oracle (answers ++ more))
    (hh : s.host = { act := a, timing := .after answers.length, cont := cont } :: rest) :
    runStep answers.length s = .next (State.afterFailedReads d f want answers.length more
      { s with host := { act := a, timing := .after 0, cont := cont } :: rest }) := by
  induction answers generalizing s with
  | nil =>
    rw [List.nil_append] at henv
    rw [List.length_nil] at hh
    simp [State.afterFailedReads, ← hh, ← henv]
  | cons x answers ih =>
    rw [List.length_cons, runStep_next (step_hangs (more := answers ++ more) h henv hh),
      ih (h.afterFailedReads 1 _ _) rfl rfl]
    simp [State.afterFailedReads, List.replicate_succ]

end

/-- Settles O21: while busy only a STATUS read has a meaning, and a command that hangs comes to the moment of the read. -/
theorem hostAccessWhileBusy : Obligations.HostAccessWhileBusy := by
  refine ⟨fun s a rest hs hh => ?_, fun s i k d f want answers more rest h henv hh => ?_⟩
  · rw [step_due_act hh]
    have hbusy : ({ s with host := rest } : State).seq ≠ .idle := hs
    refine ⟨?_, ?_, ?_⟩
    · rintro (⟨w, rfl⟩ | ⟨i, v, rfl⟩ | ⟨i, rfl⟩ | ⟨f, v, rfl⟩ | ⟨f, rfl⟩) <;> exact whenIdle_of_busy hbusy _
    · rintro d f v rfl
      exact if_pos (State.busy_iff.2 hbusy)
    · rintro rfl
      rfl
  · have hwait := runStep_hangs h henv hh
    have hbusy : s.seq ≠ .idle := by simp [(State.running_some h.1).1]
    have hread := step_due_act (s := State.afterFailedReads d f want answers.length more
      { s with host := { act := .statusRead, timing := .after 0, cont := false } :: rest }) rfl
    exact ⟨_, (runStep_add (n := 1) hwait).trans (runStep_next hread), rfl, (statusWordLayout s).1.2 hbusy, rfl⟩

end Sys2Proof.Machine
end

section
/-! The statements of the reset family (70_reset): a reset by the host from any state, and out of a command that hangs. -/

namespace Sys2Proof.Machine

/-- A reset of the block gives the values of the state after reset, whatever it interrupts (70_reset R200). -/
theorem State.blockReset_atReset (s : State) : AtReset s.blockReset := by
  obtain ⟨hseq, hstatus, -, hbits, hrtc, htr⟩ := resetLeavesTheRulesValues
  exact ⟨hseq, hstatus, hbits, hrtc, htr⟩

/-- The host's reset is taken when the block is idle, and also in the middle of a command once its moment has come. -/
theorem step_reset {s : State} {timing : HostTiming} {rest : List HostItem} (hdue : s.seq = .idle ∨ timing = .after 0)
    (hh : s.host = { act := .reset, timing := timing, cont := false } :: rest) :
    step s = .next ({ s with host := rest } : State).blockReset := by
  rw [step_host hh hdue, hostTurn_act rfl, hostAct]

/-- Settles O7: the reset is one step from any state, and a command that hangs comes to the moment of the reset. -/
theorem hostResetFromAnyState : Obligations.HostResetFromAnyState := by
  refine ⟨fun s timing rest hdue hh => ?_, fun s i k d f want answers more rest h henv hh => ?_⟩
  · exact ⟨_, step_reset hdue hh, State.blockReset_atReset _, rfl, rfl, rfl, rfl, rfl⟩
  · have hwait := runStep_hangs h henv hh
    have hreset := step_reset (s := State.afterFailedReads d f want answers.length more
      { s with host := { act := .reset, timing := .after 0, cont := false } :: rest }) (.inr rfl) rfl
    exact ⟨_, (runStep_add (n := 1) hwait).trans (runStep_next hreset), State.blockReset_atReset _, rfl, rfl, rfl, rfl, rfl⟩

end Sys2Proof.Machine
end
